-- ==== Sys2Proof/Word.lean ====
section
/-! DEFINITION. The words of the colour datapath, one name per width of rule R5 (00_scope.md). Every value
is unsigned (R7); a field `v[hi:lo]` is `v.extractLsb' lo (hi - lo + 1)` and `{a, b}` is `a ++ b`. -/

namespace Sys2Proof

/-- A burst byte, a ROM index, a ROM entry or one normalized channel (R5: GAMMA_W, RGB_W). -/
abbrev Byte := BitVec 8

/-- One raw channel (R5: CH_W). -/
abbrev Channel := BitVec 16

/-- The DATA field of a request or the RESULT field of a response (R60, R61). -/
abbrev Data := BitVec 64

/-- A request word (R60; R5: REQ_W). -/
abbrev Request := BitVec 80

/-- A response word (R61; R5: RESP_W). -/
abbrev Response := BitVec 72

end Sys2Proof
end

