-- ==== Sys2Proof/Machine/Flags.lean ====
section
/-! DEFINITION. STATUS, the block's only condition code (R28), and the response word that carries it
(R61). -/

namespace Sys2Proof.Machine

/-- The four values STATUS can hold (R28, R130). -/
inductive Status where
  | ok
  | transportError
  | notReady
  | illegal
  deriving DecidableEq, Repr

/-- The 4-bit code of a status (R28). -/
def Status.code : Status → BitVec 4
  | .ok             => 0x0#4
  | .transportError => 0x1#4
  | .notReady       => 0x2#4
  | .illegal        => 0x3#4

/-- `resp(s, r)` = `{0b0000, s[3:0], r[63:0]}` (R61). -/
def mkResponse (s : Status) (r : Data) : Response := 0#4 ++ s.code ++ r

/-- `raise s` (R8): the response of every error, RESULT = 0 (R133). -/
def errorResponse (s : Status) : Response := mkResponse s (0#64)

/-- Response bits 71:68 (R61). -/
def respRsv (r : Response) : BitVec 4 := r.extractLsb' 68 4

/-- Response bits 67:64 (R61). -/
def respStatus (r : Response) : BitVec 4 := r.extractLsb' 64 4

/-- Response bits 63:0 (R61). -/
def respResult (r : Response) : Data := r.extractLsb' 0 64

end Sys2Proof.Machine
end

