-- ==== Sys2Proof/Machine/State.lean ====
section
/-! DEFINITION. The state of the block (10_state.md R22), the input pins it will see (R21), and why a step
can stop. -/

namespace Sys2Proof.Machine

/-- What the outside of the block fixes at ONE rising edge of `clk`: the level of its three input pins
(R21), and whether the cycles of LATENCY have passed. LATENCY is open (R6) and its counter is not
architectural (R22), so "the complete step is taken at this edge" is part of the schedule and no rule of
the model says when it is (R160; log entry 2). -/
structure Edge where
  /-- The pin `rst`. -/
  rst : Bool
  /-- The pin `req_valid`. -/
  reqValid : Bool
  /-- The pins `req`. -/
  req : Request
  /-- A request in flight completes at this edge (it has no effect while BUSY = 0). -/
  latencyOver : Bool
  deriving DecidableEq, Repr

/-- Nothing presented, no reset, and a request in flight may finish: what an edge looks like after the end
of the written schedule (DESIGN CHOICE, log entry 3). -/
def Edge.idle : Edge := { rst := false, reqValid := false, req := 0#80, latencyOver := true }

/-- The state. The gamma ROM is no field: it is a constant (R30, under the spec's own heading 'What is
not state'), `Machine.gammaRom`. -/
structure State where
  /-- BUSY (R22): a request is in flight. -/
  busy : Bool
  /-- REQ_Q (R22): the request in flight, copied at the accept. -/
  reqQ : Request
  /-- RESP (R22): the response register, `{0000, STATUS, RESULT}` (R61). -/
  resp : Response
  /-- RESP_VALID (R22): RESP is the response to the last accepted request. -/
  respValid : Bool
  /-- The model's own: a reset step has been taken. While it is false the four registers above hold
  unspecified values and no request is admitted (R152). -/
  resetSeen : Bool
  /-- The model's own: the input pins at the coming edges, the next edge first (log entry 1). -/
  edges : List Edge
  deriving DecidableEq, Repr

/-- Why the machine stops. -/
inductive Fault where
  /-- Raised by `step` at a clock edge with `rst = 0` before any reset step: the registers hold unspecified
  values, and the spec's treatment is 'stuck' (R152; 93_implementation_defined.md U3). Safe: the model goes
  nowhere where the hardware would go on with unknown values. -/
  | beforeFirstReset
  deriving DecidableEq, Repr

/-- Why an operation has no meaning. No operation is refused. -/
inductive Refusal where
  /-- An operation that `exec` would reject by name. Nothing raises it: every arm has its meaning. Safe. -/
  | notModelled (mnemonic : String)
  deriving DecidableEq, Repr

/-- The block right after a reset step (R151), with nothing scheduled on its pins. -/
def State.reset : State where
  busy      := false
  reqQ      := 0#80
  resp      := 0#72
  respValid := false
  resetSeen := true
  edges     := []

end Sys2Proof.Machine
end

