-- ==== Sys2Proof/Machine/Ops.lean ====
section
/-! DEFINITION. The named operations over the state: what the pins carry at the next edge, the three steps
of the block (reset, accept, complete), its output equations, and which of the steps an edge takes. -/

namespace Sys2Proof.Machine

/-! ## The edge -/

/-- The pins at the next rising edge. -/
def State.edge (s : State) : Edge := s.edges.headD Edge.idle

/-- Past that edge; every register keeps its value. -/
def State.tick (s : State) : State := { s with edges := s.edges.tail }

/-! ## Output equations (R31) -/

/-- `req_ready = NOT BUSY AND NOT rst`. -/
def reqReady (s : State) : Bool := !s.busy && !s.edge.rst

/-- `resp_valid = RESP_VALID`. -/
def respValidOut (s : State) : Bool := s.respValid

/-- `resp = RESP`. -/
def respOut (s : State) : Response := s.resp

/-- What a requester may take from the port: RESP is read only while `resp_valid = 1` (R156;
93_implementation_defined.md U10). -/
def observedResponse (s : State) : Option Response := if s.respValid then some s.resp else none

/-! ## Steps -/

/-- The reset step (R150). -/
def resetRegs (s : State) : State :=
  { s with busy := false, respValid := false, resp := 0#72, reqQ := 0#80, resetSeen := true }

/-- The accept step (R32): RESP keeps its old value, marked stale. -/
def acceptReq (q : Request) (s : State) : State :=
  { s with reqQ := q, busy := true, respValid := false }

/-- The complete step (R33) with the response `r`. REQ_Q keeps the request. -/
def complete (r : Response) (s : State) : State :=
  { s with resp := r, busy := false, respValid := true }

/-- Complete with STATUS OK and a result. -/
def completeOk (result : Data) (s : State) : State := complete (mkResponse .ok result) s

/-- Complete with an error: this block's whole way of raising one (R130, R133). It saves nothing and
enters no handler, and nothing returns from it (R136). -/
def completeError (e : Status) (s : State) : State := complete (errorResponse e) s

/-! ## Which step an edge takes -/

/-- What happens at a rising edge. -/
inductive EdgeAction where
  /-- `rst = 1`. -/
  | reset
  /-- `rst = 0` before any reset step. -/
  | stuck
  /-- A request is accepted. -/
  | accept (q : Request)
  /-- The request in flight completes. -/
  | complete
  /-- Nothing: no request is presented, or LATENCY has not passed. -/
  | wait
  deriving DecidableEq, Repr

/-- Reset has priority over accept and complete (R150); before the first reset nothing is admitted (R152);
a request is accepted only while BUSY = 0 (R32); completion is enabled while BUSY = 1 (R33, R160). -/
def edgeAction (s : State) : EdgeAction :=
  if s.edge.rst then .reset
  else if !s.resetSeen then .stuck
  else if s.busy then (if s.edge.latencyOver then .complete else .wait)
  else if s.edge.reqValid then .accept s.edge.req
  else .wait

/-! ## Schedules -/

/-- An edge with nothing presented at which a request in flight does not complete. -/
def Edge.waiting : Edge := { Edge.idle with latencyOver := false }

/-- The edges after an accept when LATENCY is `latency` (R6, R160): the last of them is the completing
one. -/
def latencyEdges (latency : Nat) : List Edge := List.replicate (latency - 1) Edge.waiting ++ [Edge.idle]

/-- A request placed as an accept leaves it, with LATENCY over at the next edge: what `withFetchWord`
needs (log entry 4). -/
def placeRequest (q : Request) (s : State) : State :=
  { acceptReq q s with resetSeen := true, edges := Edge.idle :: s.edges }

end Sys2Proof.Machine
end

