-- ==== Sys2Proof/Machine/Rom.lean ====
section
/-! DEFINITION. The gamma ROM: 256 constant bytes, `ROM[i] = round(255 * (i / 255) ^ (1 / 2.5))` (R110 of
42_gamma.md). The rows are the spec's decimal table, sixteen entries each; `gammaRow7` holds ROM[0x70] to
ROM[0x7F]. No port, operation or reset changes them (R30). -/

namespace Sys2Proof.Machine

def gammaRow0 : List Nat := [0, 28, 37, 43, 48, 53, 57, 61, 64, 67, 70, 73, 75, 78, 80, 82]
def gammaRow1 : List Nat := [84, 86, 88, 90, 92, 94, 96, 97, 99, 101, 102, 104, 105, 107, 108, 110]
def gammaRow2 : List Nat := [111, 113, 114, 115, 117, 118, 119, 120, 122, 123, 124, 125, 126, 127, 129, 130]
def gammaRow3 : List Nat := [131, 132, 133, 134, 135, 136, 137, 138, 139, 140, 141, 142, 143, 144, 145, 146]
def gammaRow4 : List Nat := [147, 148, 149, 149, 150, 151, 152, 153, 154, 155, 155, 156, 157, 158, 159, 160]
def gammaRow5 : List Nat := [160, 161, 162, 163, 164, 164, 165, 166, 167, 167, 168, 169, 170, 170, 171, 172]
def gammaRow6 : List Nat := [173, 173, 174, 175, 175, 176, 177, 177, 178, 179, 179, 180, 181, 182, 182, 183]
def gammaRow7 : List Nat := [183, 184, 185, 185, 186, 187, 187, 188, 189, 189, 190, 190, 191, 192, 192, 193]
def gammaRow8 : List Nat := [194, 194, 195, 195, 196, 197, 197, 198, 198, 199, 199, 200, 201, 201, 202, 202]
def gammaRow9 : List Nat := [203, 203, 204, 205, 205, 206, 206, 207, 207, 208, 208, 209, 209, 210, 211, 211]
def gammaRowA : List Nat := [212, 212, 213, 213, 214, 214, 215, 215, 216, 216, 217, 217, 218, 218, 219, 219]
def gammaRowB : List Nat := [220, 220, 221, 221, 222, 222, 223, 223, 224, 224, 225, 225, 226, 226, 227, 227]
def gammaRowC : List Nat := [228, 228, 229, 229, 230, 230, 230, 231, 231, 232, 232, 233, 233, 234, 234, 235]
def gammaRowD : List Nat := [235, 235, 236, 236, 237, 237, 238, 238, 239, 239, 240, 240, 240, 241, 241, 242]
def gammaRowE : List Nat := [242, 243, 243, 243, 244, 244, 245, 245, 246, 246, 246, 247, 247, 248, 248, 248]
def gammaRowF : List Nat := [249, 249, 250, 250, 251, 251, 251, 252, 252, 253, 253, 253, 254, 254, 255, 255]

/-- The 256 entries, index 0 first (R110). -/
def gammaTable : List Nat :=
  gammaRow0 ++ gammaRow1 ++ gammaRow2 ++ gammaRow3 ++ gammaRow4 ++ gammaRow5 ++ gammaRow6 ++ gammaRow7 ++
    gammaRow8 ++ gammaRow9 ++ gammaRowA ++ gammaRowB ++ gammaRowC ++ gammaRowD ++ gammaRowE ++ gammaRowF

/-- `ROM[i]` (R8, R110). Every index is populated (R50), so the default is never met. -/
def gammaRom (i : Byte) : Byte := BitVec.ofNat 8 (gammaTable.getD i.toNat 0)

end Sys2Proof.Machine
end

