-- ==== Sys2Proof/Machine/Gamma.lean ====
section
/-! DEFINITION. GAMMA (42_gamma.md). -/

namespace Sys2Proof.Machine

/-- GAMMA (R112): always OK; every 8-bit index is in range. -/
def execGamma (index : Byte) (s : State) : Host.Outcome State Fault Refusal :=
  .next (completeOk ((gammaRom index).setWidth 64) s)

end Sys2Proof.Machine
end

