-- ==== Sys2Proof/Syntax.lean ====
section
/-! DEFINITION. The operations of the block: one constructor of `Instr` per row of spec/opcode_table.json,
carrying exactly the request fields that the operation reads (R62, R63 of 30_encoding.md). -/

namespace Sys2Proof

/-- The fields a burst-consuming request is read for (R24, R25, R26, R41). -/
structure Burst where
  /-- RDY, request bit 69: the requester says that power-on sequencing has completed (R24). -/
  rdy  : Bool
  /-- TERR, request bit 68: the transport reported a failure (R25). -/
  terr : Bool
  /-- LEN, request bits 67:64: how many bytes the transport returned, 0..15 (R26; the bound is `Instr.wf`). -/
  len  : Nat
  /-- DATA: byte B(k) is bits 8k+7:8k (R41). -/
  data : Data
  deriving DecidableEq, Repr

/-- The four raw channels (R27). -/
structure RawChannels where
  clear : Channel
  red   : Channel
  green : Channel
  blue  : Channel
  deriving DecidableEq, Repr

/-- The three normalized channels (R27). -/
structure NormalizedColor where
  red   : Byte
  green : Byte
  blue  : Byte
  deriving DecidableEq, Repr

/-- The six operations (R64). -/
inductive Instr where
  /-- NOP, R120: reads nothing. -/
  | nop
  /-- UNPACK, R82: check a burst and unpack it. -/
  | unpack (b : Burst)
  /-- NORMALIZE, R93: raw channels to gamma-corrected colour. -/
  | normalize (raw : RawChannels)
  /-- GETRGB, R95: UNPACK, then NORMALIZE. -/
  | getrgb (b : Burst)
  /-- GAMMA, R112: read one ROM entry. -/
  | gamma (index : Byte)
  /-- SCALE, R96: the clamped scaled values before the gamma lookup. -/
  | scale (raw : RawChannels)
  deriving DecidableEq, Repr

end Sys2Proof
end

