-- ==== Sys2Proof/WellFormed.lean ====
section
/-! DEFINITION. Which operations an 80-bit request can carry. Every other operand has exactly its field's
width as a type, so the one thing to check is that a byte count fits the 4-bit LEN field (R26, R60). -/

namespace Sys2Proof

/-- LEN is 0..15 (R26). -/
def Burst.wf (b : Burst) : Bool := decide (b.len < 16)

/-- The operation can be encoded in a request word. -/
def Instr.wf : Instr → Bool
  | .nop         => true
  | .unpack b    => b.wf
  | .normalize _ => true
  | .getrgb b    => b.wf
  | .gamma _     => true
  | .scale _     => true

end Sys2Proof
end

