-- ==== Sys2Proof/Decode.lean ====
section
/-! DEFINITION. From request words to operations and back (30_encoding.md). The decoder is total: a word is
one of the six operations or is reserved, and then it is rejected under the name of the field that is
reserved (R65). The encoder follows it, written from the same layout (R60) and opcode map (R64). -/

namespace Sys2Proof

/-! ## Fields of a request word (R60) -/

def reqRsv1 (q : Request) : BitVec 4 := q.extractLsb' 76 4
def reqOp   (q : Request) : BitVec 4 := q.extractLsb' 72 4
def reqRsv0 (q : Request) : BitVec 2 := q.extractLsb' 70 2
def reqRdy  (q : Request) : Bool     := q.getLsbD 69
def reqTerr (q : Request) : Bool     := q.getLsbD 68
def reqLen  (q : Request) : Nat      := (q.extractLsb' 64 4).toNat
def reqData (q : Request) : Data     := q.extractLsb' 0 64

/-! ## How DATA is read (R62) -/

/-- DATA as burst bytes: B(k) = DATA[8k+7:8k] (R41). -/
def burstByte (d : Data) (k : Nat) : Byte := d.extractLsb' (8 * k) 8

/-- DATA as a RawChannels tuple (R27). -/
def rawOfData (d : Data) : RawChannels where
  clear := d.extractLsb' 0 16
  red   := d.extractLsb' 16 16
  green := d.extractLsb' 32 16
  blue  := d.extractLsb' 48 16

/-- A RawChannels tuple in 64 bits, `{blue, green, red, clear}` (R27). -/
def dataOfRaw (raw : RawChannels) : Data := raw.blue ++ raw.green ++ raw.red ++ raw.clear

/-- DATA as a ROM index: DATA[7:0]; bits 63:8 are ignored (R62, R112). -/
def indexOfData (d : Data) : Byte := d.extractLsb' 0 8

/-- The four fields UNPACK and GETRGB read (R62, R63). -/
def burstOfRequest (q : Request) : Burst where
  rdy  := reqRdy q
  terr := reqTerr q
  len  := reqLen q
  data := reqData q

/-! ## The decoder -/

/-- Why a word is reserved (R65). -/
inductive Reject where
  /-- RSV1 (bits 79:76) is not 0. -/
  | reservedRsv1
  /-- RSV0 (bits 71:70) is not 0. -/
  | reservedRsv0
  /-- OP (bits 75:72) is in 0x6..0xF. -/
  | reservedOp
  deriving DecidableEq, Repr

/-- What a request word stands for. -/
inductive Decoded where
  | instr (i : Instr)
  | illegal (why : Reject)
  deriving DecidableEq, Repr

/-- The opcode map (R64). -/
def decodeOp (q : Request) : Decoded :=
  match reqOp q with
  | 0x0#4 => .instr .nop
  | 0x1#4 => .instr (.unpack (burstOfRequest q))
  | 0x2#4 => .instr (.normalize (rawOfData (reqData q)))
  | 0x3#4 => .instr (.getrgb (burstOfRequest q))
  | 0x4#4 => .instr (.gamma (indexOfData (reqData q)))
  | 0x5#4 => .instr (.scale (rawOfData (reqData q)))
  | _     => .illegal .reservedOp

/-- Decode a whole request: the reserved fields are checked for every OP, before it is looked at
(R65, R66). -/
def decode (q : Request) : Decoded :=
  if reqRsv1 q ≠ 0#4 then .illegal .reservedRsv1
  else if reqRsv0 q ≠ 0#2 then .illegal .reservedRsv0
  else decodeOp q

/-- The decoder on a word as spec/opcode_table.json numbers its bits: bit 0 is the least significant bit of
the one 80-bit request word, and bits from `nbits` up are 0. A request is 80 bits and never longer (R67). -/
def decodeTableWord (nbits w : Nat) : Option Instr :=
  if 2 ^ 80 ≤ w % 2 ^ nbits then none
  else
    match decode (BitVec.ofNat 80 (w % 2 ^ nbits)) with
    | .instr i   => some i
    | .illegal _ => none

/-! ## The encoder -/

/-- Lay out a request word (R60). -/
def mkRequest (op : BitVec 4) (rdy terr : Bool) (len : Nat) (data : Data) : Request :=
  0#4 ++ op ++ 0#2 ++ BitVec.ofBool rdy ++ BitVec.ofBool terr ++ BitVec.ofNat 4 len ++ data

/-- OP of each operation (R64). -/
def Instr.opcode : Instr → BitVec 4
  | .nop         => 0x0#4
  | .unpack _    => 0x1#4
  | .normalize _ => 0x2#4
  | .getrgb _    => 0x3#4
  | .gamma _     => 0x4#4
  | .scale _     => 0x5#4

/-- The word of an operation; every field the operation does not read is 0 (R68). -/
def encode : Instr → Request
  | .nop           => mkRequest (0x0#4) false false 0 (0#64)
  | .unpack b      => mkRequest (0x1#4) b.rdy b.terr b.len b.data
  | .normalize raw => mkRequest (0x2#4) false false 0 (dataOfRaw raw)
  | .getrgb b      => mkRequest (0x3#4) b.rdy b.terr b.len b.data
  | .gamma index   => mkRequest (0x4#4) false false 0 (index.setWidth 64)
  | .scale raw     => mkRequest (0x5#4) false false 0 (dataOfRaw raw)

/-- The bits of a word that its operation reads, the opcode and reserved fields among them: those that
spec/opcode_table.json does not write as `-` (R63). -/
def readMask : Instr → Request
  | .nop         => 0xFFC00000000000000000#80
  | .unpack _    => 0xFFFFFFFFFFFFFFFFFFFF#80
  | .normalize _ => 0xFFC0FFFFFFFFFFFFFFFF#80
  | .getrgb _    => 0xFFFFFFFFFFFFFFFFFFFF#80
  | .gamma _     => 0xFFC000000000000000FF#80
  | .scale _     => 0xFFC0FFFFFFFFFFFFFFFF#80

/-! ## The opcode table, as spec/opcode_table.json writes it -/

/-- One row of the table: a word selects it when `word AND mask = pattern` (30_encoding.md, introduction). -/
structure OpRow where
  mnemonic : String
  opcode   : BitVec 4
  pattern  : Request
  mask     : Request
  deriving DecidableEq, Repr

def opcodeTable : List OpRow :=
  [⟨"NOP",       0x0#4, 0x00000000000000000000#80, 0xFFC00000000000000000#80⟩,
   ⟨"UNPACK",    0x1#4, 0x01000000000000000000#80, 0xFFC00000000000000000#80⟩,
   ⟨"NORMALIZE", 0x2#4, 0x02000000000000000000#80, 0xFFC00000000000000000#80⟩,
   ⟨"GETRGB",    0x3#4, 0x03000000000000000000#80, 0xFFC00000000000000000#80⟩,
   ⟨"GAMMA",     0x4#4, 0x04000000000000000000#80, 0xFFC00000000000000000#80⟩,
   ⟨"SCALE",     0x5#4, 0x05000000000000000000#80, 0xFFC00000000000000000#80⟩]

/-! ## The spec's assembly forms (R68, R69) -/

/-- `bytes=[b0, …]`: B(k) = bk; missing trailing bytes are 0 (R68). -/
def dataOfBytes (bs : List Byte) : Data :=
  bs.getD 7 0 ++ bs.getD 6 0 ++ bs.getD 5 0 ++ bs.getD 4 0 ++
    bs.getD 3 0 ++ bs.getD 2 0 ++ bs.getD 1 0 ++ bs.getD 0 0

/-- The operands of `UNPACK` and `GETRGB` as written in assembly (R68). -/
def asmBurst (rdy terr : Bool) (len : Nat) (bytes : List Byte) : Burst where
  rdy  := rdy
  terr := terr
  len  := len
  data := dataOfBytes bytes

/-- The pseudo-instruction `BURST b0, …, b7` (R69). -/
def pseudoBurst (bytes : List Byte) : Instr := .unpack (asmBurst true false 8 bytes)

/-- The pseudo-instruction `RGB b0, …, b7` (R69). -/
def pseudoRgb (bytes : List Byte) : Instr := .getrgb (asmBurst true false 8 bytes)

end Sys2Proof
end

