-- ==== Sys2Proof/Machine/Operands.lean ====
section
/-! DEFINITION. The functions that operations share: judging and decoding a burst (40_unpack.md), scaling
and normalizing channels (41_normalize.md), and the payload bytes of a RESULT (20_memory.md). -/

namespace Sys2Proof.Machine

/-! ## Bursts -/

/-- `BurstCheck` (R80): NOT_READY before TRANSPORT_ERROR (R134). -/
def burstCheck (b : Burst) : Status :=
  if b.rdy = false then .notReady
  else if b.terr = true ∨ b.len ≠ 8 then .transportError
  else .ok

/-- `Decode` (R81): bytes [0,1] are clear, [2,3] red, [4,5] green and [6,7] blue, each pair little-endian
(R44). -/
def decodeBurst (d : Data) : RawChannels where
  clear := burstByte d 1 ++ burstByte d 0
  red   := burstByte d 3 ++ burstByte d 2
  green := burstByte d 5 ++ burstByte d 4
  blue  := burstByte d 7 ++ burstByte d 6

/-! ## Channels -/

/-- `ScaleCh` (R90): exact product, truncating quotient, clamped before it becomes a byte (R91, R98). It is
called with `clear ≠ 0` only. -/
def scaleCh (ch clear : Channel) : Byte := BitVec.ofNat 8 (min (ch.toNat * 255 / clear.toNat) 255)

/-- The three scaled values, all 0 when clear is 0 (R96). -/
def scaleRaw (raw : RawChannels) : NormalizedColor :=
  if raw.clear = 0#16 then { red := 0#8, green := 0#8, blue := 0#8 }
  else
    { red   := scaleCh raw.red raw.clear
      green := scaleCh raw.green raw.clear
      blue  := scaleCh raw.blue raw.clear }

/-- `NormFn` (R92): the guard for clear = 0 acts on all three lanes (R97); the clamp comes before the
gamma lookup. -/
def normFn (raw : RawChannels) : NormalizedColor :=
  if raw.clear = 0#16 then { red := 0#8, green := 0#8, blue := 0#8 }
  else
    { red   := gammaRom (scaleCh raw.red raw.clear)
      green := gammaRom (scaleCh raw.green raw.clear)
      blue  := gammaRom (scaleCh raw.blue raw.clear) }

/-- Three bytes in a 64-bit RESULT, `zext_64({blue, green, red})` (R27, R97). -/
def dataOfRgb (c : NormalizedColor) : Data := (c.blue ++ c.green ++ c.red).setWidth 64

/-! ## Payloads -/

/-- Payload byte k of a RESULT is `RESULT[8k+7:8k]` (R46). -/
def payloadByte (result : Data) (k : Nat) : Byte := result.extractLsb' (8 * k) 8

/-- The 8 payload bytes of a RawChannels RESULT (R46). -/
def rawPayload (result : Data) : List Byte := (List.range 8).map (payloadByte result)

/-- The 3 payload bytes of a NormalizedColor RESULT (R46). -/
def rgbPayload (result : Data) : List Byte := (List.range 3).map (payloadByte result)

end Sys2Proof.Machine
end

