-- ==== Sys2Proof/Machine/Unpack.lean ====
section
/-! DEFINITION. UNPACK (40_unpack.md), and the burst check it shares with GETRGB. -/

namespace Sys2Proof.Machine

/-- Complete a burst-consuming operation: a rejected burst is reported whole, and an accepted one answers
`result` (R80, R84, R48). -/
def completeBurst (b : Burst) (result : Data) (s : State) : State :=
  match burstCheck b with
  | .ok => completeOk result s
  | e   => completeError e s

/-- UNPACK (R82). -/
def execUnpack (b : Burst) (s : State) : Host.Outcome State Fault Refusal :=
  .next (completeBurst b (dataOfRaw (decodeBurst b.data)) s)

end Sys2Proof.Machine
end

