-- ==== Sys2Proof/Machine/Normalize.lean ====
section
/-! DEFINITION. NORMALIZE, GETRGB and SCALE (41_normalize.md). -/

namespace Sys2Proof.Machine

/-- NORMALIZE (R93): always OK; clear = 0 is no error. -/
def execNormalize (raw : RawChannels) (s : State) : Host.Outcome State Fault Refusal :=
  .next (completeOk (dataOfRgb (normFn raw)) s)

/-- GETRGB (R95): a rejected burst is never normalized. -/
def execGetrgb (b : Burst) (s : State) : Host.Outcome State Fault Refusal :=
  .next (completeBurst b (dataOfRgb (normFn (decodeBurst b.data))) s)

/-- SCALE (R96): the ROM indices, without the lookup. -/
def execScale (raw : RawChannels) (s : State) : Host.Outcome State Fault Refusal :=
  .next (completeOk (dataOfRgb (scaleRaw raw)) s)

end Sys2Proof.Machine
end

