-- ==== Sys2Proof/Machine/System.lean ====
section
/-! DEFINITION. NOP and reserved words (43_system.md). -/

namespace Sys2Proof.Machine

/-- NOP (R120): STATUS OK, RESULT 0. -/
def execNop (s : State) : Host.Outcome State Fault Refusal := .next (completeOk (0#64) s)

/-- A reserved request word (R121): STATUS ILLEGAL, RESULT 0, and the block goes on. -/
def execIllegal (s : State) : Host.Outcome State Fault Refusal := .next (completeError .illegal s)

end Sys2Proof.Machine
end

