-- ==== Sys2Proof/Machine/Dispatch.lean ====
section
/-! DEFINITION. One arm per operation: the complete step of a decoded request (R33, R66). -/

namespace Sys2Proof.Machine

def exec (i : Instr) (s : State) : Host.Outcome State Fault Refusal :=
  match i with
  | .nop => Sys2Proof.Machine.execNop s
  | .unpack b => Sys2Proof.Machine.execUnpack b s
  | .normalize raw => Sys2Proof.Machine.execNormalize raw s
  | .getrgb b => Sys2Proof.Machine.execGetrgb b s
  | .gamma index => Sys2Proof.Machine.execGamma index s
  | .scale raw => Sys2Proof.Machine.execScale raw s

end Sys2Proof.Machine
end

