-- ==== Sys2Proof/Machine/Step.lean ====
section
/-! DEFINITION. One step is one rising edge of `clk` (R21). -/

namespace Sys2Proof.Machine

/-- One rising edge. The edge's pins are consumed; at a completing edge the request in REQ_Q is decoded and
executed, and a reserved word completes with ILLEGAL (R33, R66). -/
def step (s : State) : Host.Outcome State Fault Refusal :=
  match edgeAction s with
  | .reset    => .next (resetRegs s.tick)
  | .stuck    => .fault .beforeFirstReset
  | .accept q => .next (acceptReq q s.tick)
  | .wait     => .next s.tick
  | .complete =>
    match decode s.reqQ with
    | .instr i   => exec i s.tick
    | .illegal _ => execIllegal s.tick

/-- `s` with the request word `w` (bits from `nbits` up are 0) accepted and due at the very next step: the
block fetches nothing, and what it runs next is what stands in REQ_Q while BUSY = 1 (log entry 4). -/
def State.withFetchWord (s : State) (nbits w : Nat) : State :=
  placeRequest (BitVec.ofNat 80 (w % 2 ^ nbits)) s

end Sys2Proof.Machine
end

