-- ==== Sys2Proof/Config.lean ====
section
/-! DEFINITION. What is fixed for one instance of the hardware, and the open parameter DATA_START of rule R6
(00_scope.md). The other open parameter of R6, LATENCY, is resolved edge by edge by the schedule that
`Machine.State` holds (Machine/State.lean, `Edge.latencyOver`; log entry 2), so it stays free here. -/

namespace Sys2Proof

/-- DATA_START (R6, decision D21): the sensor register that burst byte 0 is read from. The spec gives no
value and the block never reads it, so it has no body here (log entry 5). -/
opaque Config.dataStart : Byte

/-- The command marker the upstream transport ORs into a register address (R5: CMD_BIT; R43). -/
def Config.cmdBit : Byte := 0x80#8

end Sys2Proof
end

