-- ==== Sys2Proof/Machine/ExecWord.lean ====
section
/-! DEFINITION. `Exec`, the spec's own function from request words to responses (R66), written from its
pseudocode over the bits of the raw word, without the decoder, the operand types or the state. It is a second
reading of the same rules: `step` never calls it, and the statements compare the two. It shares with
`exec` only `scaleCh` (R90), `gammaRom` (R110) and `mkResponse` (R61). -/

namespace Sys2Proof.Machine

/-- `BurstCheck(q)` (R80). -/
def wordBurstCheck (q : Request) : Status :=
  if q.getLsbD 69 = false then .notReady
  else if q.getLsbD 68 = true ∨ q.extractLsb' 64 4 ≠ 8#4 then .transportError
  else .ok

/-- `Decode(q)` (R81), packed. -/
def wordDecode (q : Request) : Data :=
  (q.extractLsb' 56 8 ++ q.extractLsb' 48 8) ++ (q.extractLsb' 40 8 ++ q.extractLsb' 32 8) ++
    (q.extractLsb' 24 8 ++ q.extractLsb' 16 8) ++ (q.extractLsb' 8 8 ++ q.extractLsb' 0 8)

/-- `NormFn(raw)` (R92), packed. -/
def wordNorm (raw : Data) : Data :=
  if raw.extractLsb' 0 16 = 0#16 then 0#64
  else
    (gammaRom (scaleCh (raw.extractLsb' 48 16) (raw.extractLsb' 0 16)) ++
      gammaRom (scaleCh (raw.extractLsb' 32 16) (raw.extractLsb' 0 16)) ++
      gammaRom (scaleCh (raw.extractLsb' 16 16) (raw.extractLsb' 0 16))).setWidth 64

/-- `Scale(q)`'s result (R96). -/
def wordScale (q : Request) : Data :=
  if q.extractLsb' 0 16 = 0#16 then 0#64
  else
    (scaleCh (q.extractLsb' 48 16) (q.extractLsb' 0 16) ++
      scaleCh (q.extractLsb' 32 16) (q.extractLsb' 0 16) ++
      scaleCh (q.extractLsb' 16 16) (q.extractLsb' 0 16)).setWidth 64

/-- `Exec(q)` (R66). -/
def execWord (q : Request) : Response :=
  if q.extractLsb' 76 4 ≠ 0#4 ∨ q.extractLsb' 70 2 ≠ 0#2 then mkResponse .illegal (0#64)
  else
    match (q.extractLsb' 72 4).toNat with
    | 0 => mkResponse .ok (0#64)
    | 1 =>
      if wordBurstCheck q ≠ .ok then mkResponse (wordBurstCheck q) (0#64)
      else mkResponse .ok (wordDecode q)
    | 2 => mkResponse .ok (wordNorm (q.extractLsb' 0 64))
    | 3 =>
      if wordBurstCheck q ≠ .ok then mkResponse (wordBurstCheck q) (0#64)
      else mkResponse .ok (wordNorm (wordDecode q))
    | 4 => mkResponse .ok ((gammaRom (q.extractLsb' 0 8)).setWidth 64)
    | 5 => mkResponse .ok (wordScale q)
    | _ => mkResponse .illegal (0#64)

end Sys2Proof.Machine
end

