-- ==== Sys2Proof/Safety.lean ====
section
/-! DEFINITION. The terms claims use: when a step is a completion, the invariant of the block, what an
observer of the ports sees along a run, and the duties of the requester that claims take as premises. -/

namespace Sys2Proof.Safety

open Sys2Proof.Machine

/-- The next edge completes the request in flight (R33): no reset, BUSY = 1, and LATENCY has passed. -/
abbrev Completing (s : State) : Prop :=
  s.resetSeen = true ∧ s.edge.rst = false ∧ s.busy = true ∧ s.edge.latencyOver = true

/-- The next edge accepts a request (R21, R32). -/
abbrev Accepting (s : State) : Prop :=
  s.resetSeen = true ∧ s.edge.rst = false ∧ s.busy = false ∧ s.edge.reqValid = true

/-- What holds in every state after a reset, whatever the requester does. -/
structure Inv (s : State) : Prop where
  /-- A reset step has been taken (R152). -/
  reset_seen : s.resetSeen = true
  /-- RESP[71:68] is always 0 (R61). -/
  rsv_zero : respRsv s.resp = 0#4
  /-- STATUS holds no value above 3 (R28). -/
  status_legal : (respStatus s.resp).toNat ≤ 3
  /-- RESULT is 0 whenever STATUS is not OK (R61, R133). -/
  error_result_zero : respStatus s.resp ≠ 0#4 → respResult s.resp = 0#64
  /-- A response and a request in flight are never there together (R32, R33). -/
  valid_idle : s.respValid = true → s.busy = false
  /-- A response that may be read answers the request still in REQ_Q (R33, R133). -/
  valid_answers : s.respValid = true → s.resp = execWord s.reqQ

/-! ## What the ports show along a run -/

/-- `k` edges, stopping where a step stops. -/
def runEdges : Nat → State → Host.Outcome State Fault Refusal
  | 0, s     => .next s
  | k + 1, s =>
    match step s with
    | .next t    => runEdges k t
    | .fault r   => .fault r
    | .refused r => .refused r

/-- What an observer of the ports notes at one edge. -/
inductive Event where
  /-- `rst` was high. -/
  | reset
  /-- A request was accepted: `req_valid` and `req_ready` were both high (R21). -/
  | accepted (q : Request)
  /-- `resp_valid` rose, with this word on `resp` (R33). -/
  | completed (r : Response)
  deriving DecidableEq, Repr

/-- What one edge, from `s` to `t`, shows. -/
def eventsOf (s t : State) : List Event :=
  if s.edge.rst then [.reset]
  else if s.edge.reqValid && reqReady s then [.accepted s.edge.req]
  else if respValidOut t && !respValidOut s then [.completed (respOut t)]
  else []

/-- What `k` edges show, oldest first. -/
def history : Nat → State → List Event
  | 0, _     => []
  | k + 1, s =>
    match step s with
    | .next t    => eventsOf s t ++ history k t
    | .fault _   => []
    | .refused _ => []

/-- One request at a time, responses in the order of acceptance, and each of them the answer to its own
request (R52); a reset abandons the request in flight (R150). The first argument is the request in flight. -/
def Served : Option Request → List Event → Prop
  | _, []                           => True
  | _, .reset :: es                 => Served none es
  | none, .accepted q :: es         => Served (some q) es
  | some _, .accepted _ :: _        => False
  | some q, .completed r :: es      => r = execWord q ∧ Served none es
  | none, .completed _ :: _         => False

/-- The same rule for one step: the events of an edge lead from the request in flight before it to the one in
flight after it (R52, R150). -/
def Takes : Option Request → List Event → Option Request → Prop
  | p, [], p'                           => p' = p
  | _, .reset :: es, p'                 => Takes none es p'
  | none, .accepted q :: es, p'         => Takes (some q) es p'
  | some _, .accepted _ :: _, _         => False
  | some q, .completed r :: es, p'      => r = execWord q ∧ Takes none es p'
  | none, .completed _ :: _, _          => False

/-- The request in flight. -/
def inFlight (s : State) : Option Request := if s.busy then some s.reqQ else none

/-! ## Duties of the requester

The block checks none of these (R155, R157): a claim that needs one takes it as a premise. -/

/-- An edge at which the requester holds `q` on the port (R156); `finishing` says whether a request in flight
completes at it. -/
def holding (q : Request) (finishing : Bool) : Edge :=
  { rst := false, reqValid := true, req := q, latencyOver := finishing }

/-- What is true upstream when a burst is presented (R24, R25, R26, R153, R155, R157). -/
structure Upstream where
  /-- The write of 0x01 to the enable register succeeded. -/
  firstEnableOk : Bool
  /-- At least 2.4 ms have passed since it. -/
  firstSettled : Bool
  /-- The write of 0x03 to the enable register succeeded. -/
  secondEnableOk : Bool
  /-- At least 2.4 ms have passed since it. -/
  secondSettled : Bool
  /-- The transport reported a failure of the transaction, which nothing masked (R158). -/
  transportFailed : Bool
  /-- How many bytes the transport returned. -/
  bytesReturned : Nat
  /-- The bytes come from one write-then-read transaction. -/
  oneTransaction : Bool
  deriving DecidableEq, Repr

/-- The power-on sequence is complete (R24, R153). -/
def Upstream.poweredOn (u : Upstream) : Bool :=
  u.firstEnableOk && u.firstSettled && u.secondEnableOk && u.secondSettled

/-- The requester presents `b` as its contract says: RDY only after power-on and settling (R24, R155), TERR
and LEN as the transport reported them (R25, R26, R158), bytes from one transaction (R157). -/
def honest (u : Upstream) (b : Burst) : Bool :=
  (!b.rdy || u.poweredOn) && (b.terr == u.transportFailed) && (b.len == u.bytesReturned) && u.oneTransaction

/-- The sensor register that burst byte `k` is read from (R42). -/
def sensorRegister (k : Nat) : Nat := Config.dataStart.toNat + k

/-- The address byte the transport sends before it reads the burst (R42, R43). The block neither forms nor
receives it. -/
def upstreamCommandByte : Byte := Config.dataStart ||| Config.cmdBit

/-- The burst's bytes are the contents of the eight sensor registers from DATA_START up (R42). -/
def burstReads (regs : Nat → Byte) (b : Burst) : Prop :=
  ∀ k, k < 8 → burstByte b.data k = regs (sensorRegister k)

end Sys2Proof.Safety
end

