-- ==== Sys2Proof/Certificates/Slice0/Obligations.lean ====
section
/-! DEFINITION. The statements for the provers. Each docstring names the rule of spec/ it comes from; where a
clause is the model's own choice, it names the log entry. A completed state is written out field by field
from the state before it, so each result statement is its own frame. -/

open Sys2Proof Sys2Proof.Machine Sys2Proof.Safety

/-! ## Steps and decoding -/

/-- A completing edge runs the decoded operation on the state past that edge (R33, R66). -/
def Obligations.StepRunsDecodedOperation : Prop :=
  ∀ (s : State) (i : Instr),
    s.resetSeen = true → s.edge.rst = false → s.busy = true → s.edge.latencyOver = true →
    decode s.reqQ = .instr i →
    step s = exec i { s with edges := s.edges.tail }

/-- The model's own interface (log entry 4): a word placed by `withFetchWord` is what the very next step
runs, from any state. -/
def Obligations.PlacedWordRunsNext : Prop :=
  ∀ (s : State) (w : Nat) (i : Instr),
    decode (BitVec.ofNat 80 (w % 2 ^ 80)) = .instr i →
    step (s.withFetchWord 80 w) =
      exec i { s with reqQ := BitVec.ofNat 80 (w % 2 ^ 80), busy := true, respValid := false, resetSeen := true }

/-- The worked encodings (R70): what each assembly line encodes to, and that the word decodes back. -/
def Obligations.WorkedEncodings : Prop :=
  encode .nop = 0x00000000000000000000#80 ∧
  encode (pseudoBurst [0x10#8, 0x00#8, 0x20#8, 0x00#8, 0x30#8, 0x00#8, 0x40#8, 0x00#8]) =
    0x01280040003000200010#80 ∧
  encode (.normalize ⟨100#16, 50#16, 100#16, 200#16⟩) = 0x020000C8006400320064#80 ∧
  encode (pseudoRgb [0x64#8, 0x00#8, 0x32#8, 0x00#8, 0x64#8, 0x00#8, 0xC8#8, 0x00#8]) =
    0x032800C8006400320064#80 ∧
  encode (.gamma 127#8) = 0x0400000000000000007F#80 ∧
  encode (.scale ⟨100#16, 50#16, 100#16, 200#16⟩) = 0x050000C8006400320064#80 ∧
  (∀ bytes, (encode (.unpack (asmBurst true false 6 bytes))).extractLsb' 64 16 = 0x0126#16) ∧
  (∀ bytes, (encode (.unpack (asmBurst false false 8 bytes))).extractLsb' 64 16 = 0x0108#16) ∧
  decode 0x00000000000000000000#80 = .instr .nop ∧
  decode 0x01280040003000200010#80 = .instr (.unpack ⟨true, false, 8, 0x0040003000200010#64⟩) ∧
  decode 0x020000C8006400320064#80 = .instr (.normalize ⟨100#16, 50#16, 100#16, 200#16⟩) ∧
  decode 0x032800C8006400320064#80 = .instr (.getrgb ⟨true, false, 8, 0x00C8006400320064#64⟩) ∧
  decode 0x0400000000000000007F#80 = .instr (.gamma 127#8) ∧
  decode 0x050000C8006400320064#80 = .instr (.scale ⟨100#16, 50#16, 100#16, 200#16⟩)

/-- Decoding an encoded well-formed operation gives it back, every operand at every value (R60, R62, R64). -/
def Obligations.DecodeOfEncode : Prop :=
  ∀ i : Instr, i.wf = true → decode (encode i) = .instr i

/-- The other direction: a word that decodes to an operation decodes to a well-formed one, and encoding that
operation gives the word back on every bit the operation reads, with 0 in every bit it ignores (R60, R62,
R63; the `-` bits of spec/opcode_table.json). -/
def Obligations.EncodeOfDecode : Prop :=
  ∀ (q : Request) (i : Instr), decode q = .instr i → i.wf = true ∧ encode i = q &&& readMask i

/-- A word decodes to an operation exactly when it selects that operation's row of the opcode table, and it
is rejected exactly when it selects no row (30_encoding.md, introduction; spec/opcode_table.json). -/
def Obligations.DecodeFollowsOpcodeTable : Prop :=
  (∀ (q : Request) (row : OpRow), row ∈ opcodeTable →
    (q &&& row.mask = row.pattern ↔ ∃ i, decode q = .instr i ∧ i.opcode = row.opcode)) ∧
  (∀ q : Request, (∃ why, decode q = .illegal why) ↔ ∀ row ∈ opcodeTable, q &&& row.mask ≠ row.pattern)

/-- The opcode map and how each operation reads its fields (R62, R64): with the reserved fields clear, each OP
decodes to its own operation, with RDY, TERR, LEN and DATA taken from the bits the rules give. -/
def Obligations.OperandsReadFromTheirFields : Prop :=
  ∀ q : Request, q.extractLsb' 76 4 = 0#4 → q.extractLsb' 70 2 = 0#2 →
    (q.extractLsb' 72 4 = 0#4 → decode q = .instr .nop) ∧
    (q.extractLsb' 72 4 = 1#4 → decode q =
      .instr (.unpack ⟨q.getLsbD 69, q.getLsbD 68, (q.extractLsb' 64 4).toNat, q.extractLsb' 0 64⟩)) ∧
    (q.extractLsb' 72 4 = 2#4 → decode q =
      .instr (.normalize ⟨q.extractLsb' 0 16, q.extractLsb' 16 16, q.extractLsb' 32 16, q.extractLsb' 48 16⟩)) ∧
    (q.extractLsb' 72 4 = 3#4 → decode q =
      .instr (.getrgb ⟨q.getLsbD 69, q.getLsbD 68, (q.extractLsb' 64 4).toNat, q.extractLsb' 0 64⟩)) ∧
    (q.extractLsb' 72 4 = 4#4 → decode q = .instr (.gamma (q.extractLsb' 0 8))) ∧
    (q.extractLsb' 72 4 = 5#4 → decode q =
      .instr (.scale ⟨q.extractLsb' 0 16, q.extractLsb' 16 16, q.extractLsb' 32 16, q.extractLsb' 48 16⟩)) ∧
    (6 ≤ (q.extractLsb' 72 4).toNat → ∃ why, decode q = .illegal why)

/-- Reserved words (R65, R121): a word with RSV1 ≠ 0, RSV0 ≠ 0 or OP in 0x6..0xF completes with ILLEGAL and
RESULT 0 and changes nothing else, and every other word decodes to an operation. -/
def Obligations.ReservedWordCompletesIllegal : Prop :=
  (∀ s : State, Completing s →
    (s.reqQ.extractLsb' 76 4 ≠ 0#4 ∨ s.reqQ.extractLsb' 70 2 ≠ 0#2 ∨ 6 ≤ (s.reqQ.extractLsb' 72 4).toNat) →
    step s = .next { s with edges := s.edges.tail, resp := 0x030000000000000000#72, busy := false,
                            respValid := true }) ∧
  (∀ q : Request, q.extractLsb' 76 4 = 0#4 → q.extractLsb' 70 2 = 0#2 → (q.extractLsb' 72 4).toNat < 6 →
    ∃ i, decode q = .instr i)

/-- Fields an operation does not read are ignored (R63): two words with the same RSV1, OP and RSV0 that also
agree on what R63 says their OP reads give the same response and leave the same state but for REQ_Q. -/
def Obligations.UnreadFieldsIgnored : Prop :=
  ∀ (s t : State) (q : Request), Completing s →
    q.extractLsb' 70 10 = s.reqQ.extractLsb' 70 10 →
    ((q.extractLsb' 72 4 = 1#4 ∨ q.extractLsb' 72 4 = 3#4) →
      q.extractLsb' 0 70 = s.reqQ.extractLsb' 0 70) →
    ((q.extractLsb' 72 4 = 2#4 ∨ q.extractLsb' 72 4 = 5#4) →
      q.extractLsb' 0 64 = s.reqQ.extractLsb' 0 64) →
    (q.extractLsb' 72 4 = 4#4 → q.extractLsb' 0 8 = s.reqQ.extractLsb' 0 8) →
    step s = .next t →
    step { s with reqQ := q } = .next { t with reqQ := q }

/-- The complete step (R33) writes `Exec(REQ_Q)`, Exec being the pseudocode of R66 over the raw word, for
every one of the 2^80 words; and RESP_VALID then stays 1, over the same RESP and REQ_Q, until an accept or a
reset. -/
def Obligations.CompletionWritesExec : Prop :=
  (∀ s : State, Completing s →
    step s = .next { s with edges := s.edges.tail, resp := execWord s.reqQ, busy := false, respValid := true }) ∧
  (∀ s : State, s.resetSeen = true → s.respValid = true → s.busy = false → s.edge.rst = false →
    s.edge.reqValid = false → step s = .next { s with edges := s.edges.tail })

/-! ## What each operation does -/

/-- NOP (R120): every word with OP 0 and clear reserved fields, the all-zero word among them, is NOP, and NOP
answers OK and 0 with no other effect. -/
def Obligations.NopAnswersZero : Prop :=
  (∀ q : Request, q.extractLsb' 70 10 = 0#10 → decode q = .instr .nop) ∧
  decode 0#80 = .instr .nop ∧
  (∀ s : State, exec .nop s = .next { s with resp := 0#72, busy := false, respValid := true })

/-- UNPACK of a complete burst (R83): STATUS OK, and RESULT is DATA bit for bit. -/
def Obligations.UnpackAcceptedAnswersData : Prop :=
  ∀ (b : Burst) (s : State), b.rdy = true → b.terr = false → b.len = 8 →
    exec (.unpack b) s = .next { s with resp := 0#8 ++ b.data, busy := false, respValid := true }

/-- UNPACK decodes all four channels, each little-endian from its byte pair (R81), or none (R84, R48). -/
def Obligations.UnpackDecodesAllOrNothing : Prop :=
  ∀ (b : Burst) (s : State), ∃ t, exec (.unpack b) s = .next t ∧
    ((b.rdy = true ∧ b.terr = false ∧ b.len = 8) →
      t.resp.extractLsb' 0 16 = b.data.extractLsb' 8 8 ++ b.data.extractLsb' 0 8 ∧
      t.resp.extractLsb' 16 16 = b.data.extractLsb' 24 8 ++ b.data.extractLsb' 16 8 ∧
      t.resp.extractLsb' 32 16 = b.data.extractLsb' 40 8 ++ b.data.extractLsb' 32 8 ∧
      t.resp.extractLsb' 48 16 = b.data.extractLsb' 56 8 ++ b.data.extractLsb' 48 8) ∧
    (¬ (b.rdy = true ∧ b.terr = false ∧ b.len = 8) → t.resp.extractLsb' 0 64 = 0#64)

/-- `BurstCheck` (R80), and that UNPACK and GETRGB turn away a burst with exactly its status, RESULT 0, and no
other effect than a completion's. -/
def Obligations.RejectedBurstAnswersStatus : Prop :=
  ∀ (b : Burst) (s : State) (i : Instr), i = .unpack b ∨ i = .getrgb b →
    (b.rdy = false → burstCheck b = .notReady ∧
      exec i s = .next { s with resp := 0x020000000000000000#72, busy := false, respValid := true }) ∧
    (b.rdy = true → (b.terr = true ∨ b.len ≠ 8) → burstCheck b = .transportError ∧
      exec i s = .next { s with resp := 0x010000000000000000#72, busy := false, respValid := true }) ∧
    (b.rdy = true → b.terr = false → b.len = 8 → burstCheck b = .ok)

/-- NORMALIZE (R92, R93) in plain arithmetic: 0 when clear is 0, else ROM[min(255, ch*255/clear)] in each lane,
red lowest. -/
def Obligations.NormalizeAnswersGammaOfRatio : Prop :=
  ∀ (raw : RawChannels) (s : State),
    exec (.normalize raw) s =
      .next { s with
        resp := BitVec.ofNat 72
          (if raw.clear.toNat = 0 then 0
           else (gammaRom (BitVec.ofNat 8 (min (raw.red.toNat * 255 / raw.clear.toNat) 255))).toNat +
             256 * (gammaRom (BitVec.ofNat 8 (min (raw.green.toNat * 255 / raw.clear.toNat) 255))).toNat +
             65536 * (gammaRom (BitVec.ofNat 8 (min (raw.blue.toNat * 255 / raw.clear.toNat) 255))).toNat),
        busy := false, respValid := true }

/-- GETRGB of a complete burst (R95, D17): what NORMALIZE answers on the RESULT that UNPACK answers for the
same burst, and nothing else changes. -/
def Obligations.GetrgbIsNormalizeOfUnpack : Prop :=
  ∀ (b : Burst) (s : State), b.rdy = true → b.terr = false → b.len = 8 →
    ∃ t u, exec (.getrgb b) s = .next t ∧
      exec (.unpack b) s = .next u ∧
      exec (.normalize (rawOfData (u.resp.extractLsb' 0 64))) s = .next t ∧
      t = { s with resp := t.resp, busy := false, respValid := true }

/-- SCALE (R96) in plain arithmetic: 0 when clear is 0, else min(255, ch*255/clear) in each lane, red lowest. -/
def Obligations.ScaleAnswersRatio : Prop :=
  ∀ (raw : RawChannels) (s : State),
    exec (.scale raw) s =
      .next { s with
        resp := BitVec.ofNat 72
          (if raw.clear.toNat = 0 then 0
           else min (raw.red.toNat * 255 / raw.clear.toNat) 255 +
             256 * min (raw.green.toNat * 255 / raw.clear.toNat) 255 +
             65536 * min (raw.blue.toNat * 255 / raw.clear.toNat) 255),
        busy := false, respValid := true }

/-- NORMALIZE is the lane-wise ROM image of SCALE, the case clear = 0 included (R96, corner cases). -/
def Obligations.NormalizeIsRomImageOfScale : Prop :=
  ∀ (raw : RawChannels) (s : State), ∃ t u,
    exec (.normalize raw) s = .next t ∧ exec (.scale raw) s = .next u ∧
    (∀ k, k < 3 → t.resp.extractLsb' (8 * k) 8 = gammaRom (u.resp.extractLsb' (8 * k) 8)) ∧
    t.resp.extractLsb' 24 48 = 0#48 ∧ u.resp.extractLsb' 24 48 = 0#48

/-- GAMMA (R112): OK and the one ROM entry, at the word level whatever DATA[63:8], RDY, TERR and LEN hold. -/
def Obligations.GammaAnswersEntry : Prop :=
  (∀ (index : Byte) (s : State),
    exec (.gamma index) s =
      .next { s with resp := BitVec.ofNat 72 (gammaRom index).toNat, busy := false, respValid := true }) ∧
  (∀ q : Request, q.extractLsb' 70 10 = 0x010#10 → decode q = .instr (.gamma (q.extractLsb' 0 8)))

/-- No operation has a side effect outside RESP, BUSY and RESP_VALID, and every operation completes (R49,
R33). -/
def Obligations.OperationsCompleteWithoutSideEffect : Prop :=
  ∀ (i : Instr) (s : State), ∃ t, exec i s = .next t ∧
    t.busy = false ∧ t.respValid = true ∧
    t.reqQ = s.reqQ ∧ t.resetSeen = s.resetSeen ∧ t.edges = s.edges

/-! ## Arithmetic and the ROM -/

/-- `ScaleCh` (R90), with the bounds on its intermediate values: for clear > 0 the byte is exactly
min(ch*255/clear, 255). -/
def Obligations.ScaleChExact : Prop :=
  ∀ ch clear : Channel, 0 < clear.toNat →
    (scaleCh ch clear).toNat = min (ch.toNat * 255 / clear.toNat) 255 ∧
    ch.toNat * 255 ≤ 16711425 ∧ ch.toNat * 255 / clear.toNat ≤ 16711425

/-- The properties of NormFn and ScaleCh (R94). -/
def Obligations.NormalizeProperties : Prop :=
  (∀ raw : RawChannels, raw.clear = 0#16 → normFn raw = ⟨0#8, 0#8, 0#8⟩) ∧
  (∀ ch clear : Channel, 0 < clear.toNat → ch.toNat ≤ clear.toNat → ch.toNat * 255 / clear.toNat ≤ 255) ∧
  (∀ ch ch' clear : Channel, 0 < clear.toNat → ch.toNat ≤ ch'.toNat →
    (scaleCh ch clear).toNat ≤ (scaleCh ch' clear).toNat) ∧
  (∀ (raw : RawChannels) (ch : Channel), raw.red.toNat ≤ ch.toNat →
    (normFn raw).red.toNat ≤ (normFn { raw with red := ch }).red.toNat) ∧
  (∀ (raw : RawChannels) (ch : Channel), raw.green.toNat ≤ ch.toNat →
    (normFn raw).green.toNat ≤ (normFn { raw with green := ch }).green.toNat) ∧
  (∀ (raw : RawChannels) (ch : Channel), raw.blue.toNat ≤ ch.toNat →
    (normFn raw).blue.toNat ≤ (normFn { raw with blue := ch }).blue.toNat) ∧
  (∀ raw raw' : RawChannels, raw.clear = raw'.clear →
    (raw.red = raw'.red → (normFn raw).red = (normFn raw').red) ∧
    (raw.green = raw'.green → (normFn raw).green = (normFn raw').green) ∧
    (raw.blue = raw'.blue → (normFn raw).blue = (normFn raw').blue))

/-- The lanes of NORMALIZE, SCALE and GETRGB (R97): each lane of RESULT is a function of clear and of its own
colour channel alone, the guard for clear = 0 clears all three together, and RESULT[63:24] is 0. -/
def Obligations.LanesAreSeparate : Prop :=
  ∀ (raw raw' : RawChannels) (i i' : Instr) (s : State),
    ((i = .normalize raw ∧ i' = .normalize raw') ∨ (i = .scale raw ∧ i' = .scale raw') ∨
      (i = .getrgb ⟨true, false, 8, dataOfRaw raw⟩ ∧ i' = .getrgb ⟨true, false, 8, dataOfRaw raw'⟩)) →
    raw.clear = raw'.clear →
    ∃ t t', exec i s = .next t ∧ exec i' s = .next t' ∧
      (raw.red = raw'.red → t.resp.extractLsb' 0 8 = t'.resp.extractLsb' 0 8) ∧
      (raw.green = raw'.green → t.resp.extractLsb' 8 8 = t'.resp.extractLsb' 8 8) ∧
      (raw.blue = raw'.blue → t.resp.extractLsb' 16 8 = t'.resp.extractLsb' 16 8) ∧
      (raw.clear = 0#16 → t.resp.extractLsb' 0 24 = 0#24) ∧
      t.resp.extractLsb' 24 40 = 0#40

/-- The gamma ROM is the formula of R110 in exact real arithmetic. -/
def Obligations.GammaRomIsFormula : Prop :=
  ∀ i : Byte, round ((255 : ℝ) * ((i.toNat : ℝ) / 255) ^ ((1 : ℝ) / 2.5)) = ((gammaRom i).toNat : ℤ)

/-- The properties of the ROM (R113), the 83 indices with an equal right neighbour among them. -/
def Obligations.GammaRomProperties : Prop :=
  (∀ i : Fin 255, (gammaRom (BitVec.ofNat 8 i)).toNat ≤ (gammaRom (BitVec.ofNat 8 (i + 1))).toNat) ∧
  gammaRom 0#8 = 0#8 ∧ gammaRom 255#8 = 255#8 ∧
  (∀ i : Fin 256, (i : Nat) ≤ (gammaRom (BitVec.ofNat 8 i)).toNat) ∧
  (List.range 255).filter (fun i => gammaRom (BitVec.ofNat 8 i) == gammaRom (BitVec.ofNat 8 (i + 1))) =
    [66, 73, 79, 84, 88, 92, 96, 99, 102, 105, 109, 111, 114, 117, 120, 122, 125, 128, 130, 133, 135, 137,
     140, 142, 144, 147, 149, 151, 153, 155, 158, 160, 162, 164, 166, 168, 170, 172, 174, 176, 178, 180,
     182, 184, 186, 188, 190, 192, 194, 196, 197, 199, 201, 203, 205, 207, 208, 210, 212, 214, 216, 218,
     219, 221, 223, 225, 226, 228, 230, 232, 233, 235, 237, 238, 240, 242, 244, 245, 247, 249, 250, 252,
     254]

/-- Payload bytes (R46): a RawChannels RESULT serialises as clear, red, green, blue, low byte first, and a
NormalizedColor RESULT as red, green, blue. -/
def Obligations.PayloadOrder : Prop :=
  (∀ raw : RawChannels, rawPayload (dataOfRaw raw) =
    [raw.clear.extractLsb' 0 8, raw.clear.extractLsb' 8 8, raw.red.extractLsb' 0 8, raw.red.extractLsb' 8 8,
     raw.green.extractLsb' 0 8, raw.green.extractLsb' 8 8, raw.blue.extractLsb' 0 8,
     raw.blue.extractLsb' 8 8]) ∧
  (∀ c : NormalizedColor, rgbPayload (dataOfRgb c) = [c.red, c.green, c.blue]) ∧
  (∀ (result : Data) (k : Nat), payloadByte result k = result.extractLsb' (8 * k) 8)

/-! ## Errors -/

/-- Which status a completed request reports (R130, R134): the first cause that applies, in the order
ILLEGAL, NOT_READY, TRANSPORT_ERROR; NORMALIZE, SCALE, GAMMA and NOP never fail. -/
def Obligations.ErrorPriority : Prop :=
  ∀ s : State, Completing s → ∃ t, step s = .next t ∧
    respStatus t.resp =
      (if s.reqQ.extractLsb' 76 4 ≠ 0#4 ∨ s.reqQ.extractLsb' 70 2 ≠ 0#2 ∨ 6 ≤ (s.reqQ.extractLsb' 72 4).toNat
       then 3#4
       else if s.reqQ.extractLsb' 72 4 = 1#4 ∨ s.reqQ.extractLsb' 72 4 = 3#4 then
         (if s.reqQ.getLsbD 69 = false then 2#4
          else if s.reqQ.getLsbD 68 = true ∨ s.reqQ.extractLsb' 64 4 ≠ 8#4 then 1#4
          else 0#4)
       else 0#4) ∧
    (respStatus t.resp ≠ 0#4 → respResult t.resp = 0#64)

/-- STATUS (R28): a completion writes one of four codes; only a completion writes it after a reset has cleared
it; no request reads it; and it is OK, with no response, after reset. -/
def Obligations.StatusWrittenByCompletionOnly : Prop :=
  (∀ s t : State, Completing s → step s = .next t →
    respStatus t.resp = 0#4 ∨ respStatus t.resp = 1#4 ∨ respStatus t.resp = 2#4 ∨ respStatus t.resp = 3#4) ∧
  (∀ s t : State, ¬ Completing s → s.edge.rst = false → step s = .next t →
    respStatus t.resp = respStatus s.resp) ∧
  (∀ (s t : State) (r : Response), Completing s → step s = .next t → step { s with resp := r } = .next t) ∧
  respStatus State.reset.resp = 0#4 ∧ State.reset.respValid = false

/-! ## The steps of the block -/

/-- The output equations (R31); no output depends on `req` or `req_valid`. -/
def Obligations.OutputEquations : Prop :=
  (∀ s : State, reqReady s = (!s.busy && !s.edge.rst) ∧ respValidOut s = s.respValid ∧ respOut s = s.resp) ∧
  (∀ (s : State) (e : Edge) (es : List Edge) (v : Bool) (q : Request), s.edges = e :: es →
    reqReady { s with edges := { e with reqValid := v, req := q } :: es } = reqReady s ∧
    respValidOut { s with edges := { e with reqValid := v, req := q } :: es } = respValidOut s ∧
    respOut { s with edges := { e with reqValid := v, req := q } :: es } = respOut s)

/-- The accept step (R32), and that a busy block ignores what is presented. -/
def Obligations.AcceptCopiesRequest : Prop :=
  (∀ s : State, Accepting s →
    step s = .next { s with edges := s.edges.tail, reqQ := s.edge.req, busy := true, respValid := false }) ∧
  (∀ (s : State) (e : Edge) (es : List Edge) (v : Bool) (q : Request),
    s.resetSeen = true → s.busy = true → s.edges = e :: es →
    step { s with edges := { e with reqValid := v, req := q } :: es } = step s)

/-- An edge that resets, accepts and completes nothing leaves every register as it is (R22, R156; that an edge
may leave a request in flight is LATENCY, R160). -/
def Obligations.OtherEdgesKeepRegisters : Prop :=
  ∀ s : State, s.resetSeen = true → s.edge.rst = false → ¬ Accepting s → ¬ Completing s →
    step s = .next { s with edges := s.edges.tail }

/-- The reset step (R150): from every state, a request in flight or not, before the first reset or after it,
and whatever is presented or due at the same edge. That it also marks a reset as seen is the model's own
field (log entry 6). -/
def Obligations.ResetClearsRegisters : Prop :=
  ∀ s : State, s.edge.rst = true →
    reqReady s = false ∧
    step s = .next { busy := false, respValid := false, resp := 0#72, reqQ := 0#80, resetSeen := true,
                     edges := s.edges.tail }

/-- The state after reset (R151): idle, no response yet, RESP and REQ_Q 0, and `req_ready = 1` once
`rst = 0`. -/
def Obligations.StateAfterReset : Prop :=
  State.reset.busy = false ∧ State.reset.respValid = false ∧ State.reset.resp = 0#72 ∧
  respStatus State.reset.resp = 0#4 ∧ respResult State.reset.resp = 0#64 ∧ State.reset.reqQ = 0#80 ∧
  (∀ es : List Edge, (es.headD Edge.idle).rst = false → reqReady { State.reset with edges := es } = true)

/-- Before the first reset nothing is admitted (R152). That the model then stops with a named fault is its
form of the spec's 'stuck' (93_implementation_defined.md U3; log entry 6). -/
def Obligations.StuckBeforeFirstReset : Prop :=
  ∀ s : State, s.resetSeen = false → s.edge.rst = false → step s = .fault .beforeFirstReset

/-! ## The block over time -/

/-- The invariant `Inv` holds after reset. -/
def Obligations.ResetStateMeetsInv : Prop := Inv State.reset

/-- Every step keeps `Inv`: RESP stays well formed, a response and a request in flight are never there
together, and a readable response is `Exec` of the request in REQ_Q (R28, R33, R61, R133). -/
def Obligations.StepKeepsInv : Prop :=
  ∀ s t : State, Inv s → step s = .next t → Inv t

/-- What the ports show over any number of edges, whatever the requester and LATENCY do (R52, R33, R150): one
request at a time, responses in the order of acceptance, each of them `Exec` of its own request, and none for
a request abandoned by a reset. -/
def Obligations.ResponsesInOrderOfAcceptance : Prop :=
  ∀ (k : Nat) (s : State), s.resetSeen = true → (s.respValid = true → s.busy = false) →
    Served (inFlight s) (history k s)

/-- The block never hangs (R160): a request in flight that no reset abandons is completed. The bound rests on
the model's convention that LATENCY is over once the written schedule ends (log entry 3), its form of the
spec's fairness assumption. -/
def Obligations.RequestInFlightCompletes : Prop :=
  ∀ s : State, s.resetSeen = true → s.busy = true → (∀ e ∈ s.edges, e.rst = false) →
    ∃ (k : Nat) (t : State), k ≤ s.edges.length + 1 ∧ runEdges k s = .next t ∧
      t.busy = false ∧ t.respValid = true ∧ t.reqQ = s.reqQ ∧ t.resp = execWord s.reqQ

/-- LATENCY is free (R6, R160): for every integer of at least 1 there is a schedule in which an accepted
request completes exactly that many edges after its accept, and not before. -/
def Obligations.EveryLatencyHappens : Prop :=
  ∀ (latency : Nat) (q : Request) (es : List Edge) (s : State), 1 ≤ latency →
    s.resetSeen = true → s.busy = true → s.respValid = false → s.reqQ = q →
    s.edges = latencyEdges latency ++ es →
    (∀ j, j < latency → runEdges j s = .next { s with edges := s.edges.drop j }) ∧
    runEdges latency s =
      .next { s with edges := es, resp := execWord q, busy := false, respValid := true }

/-- A request held on the port while the block is busy is taken as soon as the block is free (R156, R32):
one edge after the completion. -/
def Obligations.HeldRequestIsTaken : Prop :=
  ∀ (n : Nat) (q : Request) (es : List Edge) (s : State),
    s.resetSeen = true → s.busy = true →
    s.edges = List.replicate n (holding q false) ++ holding q true :: holding q true :: es →
    runEdges (n + 2) s =
      .next { s with edges := es, reqQ := q, resp := execWord s.reqQ, busy := true, respValid := false }

/-- A response depends on the request alone (R29, R49): two completing states with the same REQ_Q answer the
same word, whatever else differs between them. -/
def Obligations.ResponseDependsOnRequestOnly : Prop :=
  ∀ s s' : State, Completing s → Completing s' → s.reqQ = s'.reqQ →
    ∃ t t', step s = .next t ∧ step s' = .next t' ∧ t.resp = t'.resp

/-! ## What the answers mean upstream -/

/-- What a colour channel is a reading of (R42): if the burst's bytes are the sensor registers from DATA_START
up, UNPACK answers each channel as {register at the odd offset, register at the even offset below it}, whatever
value DATA_START has. -/
def Obligations.UnpackReadsSensorRegisters : Prop :=
  ∀ (regs : Nat → Byte) (b : Burst) (s : State), burstReads regs b →
    b.rdy = true → b.terr = false → b.len = 8 →
    ∃ t, exec (.unpack b) s = .next t ∧
      ∀ j, j < 4 → t.resp.extractLsb' (16 * j) 16 =
        regs (Config.dataStart.toNat + (2 * j + 1)) ++ regs (Config.dataStart.toNat + 2 * j)

/-- What STATUS OK tells a caller who trusts the requester's contract (R24, R25, R26, R153, R155, R157; the
premise is D11's and D26's): the sensor is powered and settled, the one transaction did not fail, and it
returned 8 bytes. -/
def Obligations.OkBurstIsMeaningful : Prop :=
  ∀ (u : Upstream) (b : Burst) (s t : State) (i : Instr), i = .unpack b ∨ i = .getrgb b →
    honest u b = true → exec i s = .next t → respStatus t.resp = 0#4 →
    u.poweredOn = true ∧ u.transportFailed = false ∧ u.bytesReturned = 8 ∧ u.oneTransaction = true

/-! ## The order of service, step by step -/

/-- What the ports show at one edge leads from the request in flight before it to the one in flight after it
(R52, R33, R150): an accept only into an idle block, a response only to the request in flight and equal to its
`Exec`, nothing in flight after a reset, and the same request in flight after an edge that shows nothing. The
invariant that a response and a request in flight are never there together is kept, from every state that meets
it. -/
def Obligations.StepKeepsOrderOfService : Prop :=
  ∀ s t : State, (s.respValid = true → s.busy = false) → step s = .next t →
    Takes (inFlight s) (eventsOf s t) (inFlight t) ∧ (t.respValid = true → t.busy = false) ∧
      t.resetSeen = true
end

