-- ==== Sys2Proof/Laws/Decode.lean ====
section
/-! SUPPORT. Lemmas about request words: every bit and every field of a laid-out word, the packing of DATA,
and the opcode table. -/

namespace Sys2Proof

/-! ## A laid-out word (R60) -/

theorem mkRequest_getLsbD (op : BitVec 4) (rdy terr : Bool) (len : Nat) (data : Data) (i : Nat) :
    (mkRequest op rdy terr len data).getLsbD i =
      if i < 64 then data.getLsbD i
      else if i < 68 then (BitVec.ofNat 4 len).getLsbD (i - 64)
      else if i < 69 then terr
      else if i < 70 then rdy
      else if i < 72 then false
      else if i < 76 then op.getLsbD (i - 72)
      else false := by
  unfold mkRequest
  rw [@BitVec.getLsbD_append 16 64]
  simp only [BitVec.getLsbD_append, BitVec.getLsbD_ofBool, Nat.sub_sub]
  grind

@[simp] theorem reqRsv1_mkRequest (op : BitVec 4) (rdy terr : Bool) (len : Nat) (data : Data) :
    reqRsv1 (mkRequest op rdy terr len data) = 0#4 := by
  unfold reqRsv1
  ext i hi
  simp only [BitVec.getElem_extractLsb', mkRequest_getLsbD]
  grind

@[simp] theorem reqOp_mkRequest (op : BitVec 4) (rdy terr : Bool) (len : Nat) (data : Data) :
    reqOp (mkRequest op rdy terr len data) = op := by
  unfold reqOp
  ext i hi
  simp only [BitVec.getElem_extractLsb', mkRequest_getLsbD]
  grind

@[simp] theorem reqRsv0_mkRequest (op : BitVec 4) (rdy terr : Bool) (len : Nat) (data : Data) :
    reqRsv0 (mkRequest op rdy terr len data) = 0#2 := by
  unfold reqRsv0
  ext i hi
  simp only [BitVec.getElem_extractLsb', mkRequest_getLsbD]
  grind

@[simp] theorem reqRdy_mkRequest (op : BitVec 4) (rdy terr : Bool) (len : Nat) (data : Data) :
    reqRdy (mkRequest op rdy terr len data) = rdy := by
  unfold reqRdy
  rw [mkRequest_getLsbD]
  simp

@[simp] theorem reqTerr_mkRequest (op : BitVec 4) (rdy terr : Bool) (len : Nat) (data : Data) :
    reqTerr (mkRequest op rdy terr len data) = terr := by
  unfold reqTerr
  rw [mkRequest_getLsbD]
  simp

theorem reqLen_mkRequest (op : BitVec 4) (rdy terr : Bool) (len : Nat) (data : Data) :
    reqLen (mkRequest op rdy terr len data) = len % 16 := by
  have h : (mkRequest op rdy terr len data).extractLsb' 64 4 = BitVec.ofNat 4 len := by
    ext i hi
    simp only [BitVec.getElem_extractLsb', mkRequest_getLsbD]
    grind
  unfold reqLen
  rw [h]
  simp

@[simp] theorem reqData_mkRequest (op : BitVec 4) (rdy terr : Bool) (len : Nat) (data : Data) :
    reqData (mkRequest op rdy terr len data) = data := by
  unfold reqData
  ext i hi
  simp only [BitVec.getElem_extractLsb', mkRequest_getLsbD]
  grind

theorem reqLen_lt (q : Request) : reqLen q < 16 := (q.extractLsb' 64 4).isLt

/-- A word with clear reserved fields is the layout of its own fields (R60). -/
theorem mkRequest_of_fields (q : Request) (h1 : reqRsv1 q = 0#4) (h0 : reqRsv0 q = 0#2) :
    mkRequest (reqOp q) (reqRdy q) (reqTerr q) (reqLen q) (reqData q) = q := by
  apply BitVec.eq_of_getLsbD_eq
  intro i hi
  have r1 : 76 ≤ i → q.getLsbD i = (reqRsv1 q).getLsbD (i - 76) := by simp [reqRsv1]; grind
  have r0 : 70 ≤ i → i < 72 → q.getLsbD i = (reqRsv0 q).getLsbD (i - 70) := by simp [reqRsv0]; grind
  have op : 72 ≤ i → i < 76 → q.getLsbD i = (reqOp q).getLsbD (i - 72) := by simp [reqOp]; grind
  have ln : 64 ≤ i → i < 68 → q.getLsbD i = (BitVec.ofNat 4 (reqLen q)).getLsbD (i - 64) := by
    rw [reqLen, BitVec.ofNat_toNat, BitVec.setWidth_eq, BitVec.getLsbD_extractLsb']; grind
  have dt : i < 64 → q.getLsbD i = (reqData q).getLsbD i := by simp [reqData]; grind
  have rd : q.getLsbD 69 = reqRdy q := rfl
  have te : q.getLsbD 68 = reqTerr q := rfl
  rw [h1, BitVec.getLsbD_zero] at r1
  rw [h0, BitVec.getLsbD_zero] at r0
  rw [mkRequest_getLsbD]
  grind

/-! ## DATA (R27, R41) -/

theorem dataOfRaw_getLsbD (raw : RawChannels) (i : Nat) :
    (dataOfRaw raw).getLsbD i =
      if i < 16 then raw.clear.getLsbD i
      else if i < 32 then raw.red.getLsbD (i - 16)
      else if i < 48 then raw.green.getLsbD (i - 32)
      else raw.blue.getLsbD (i - 48) := by
  unfold dataOfRaw
  rw [@BitVec.getLsbD_append 48 16]
  simp only [BitVec.getLsbD_append, Nat.sub_sub]
  grind

@[simp] theorem rawOfData_dataOfRaw (raw : RawChannels) : rawOfData (dataOfRaw raw) = raw := by
  cases raw
  simp only [rawOfData, RawChannels.mk.injEq]
  refine ⟨?_, ?_, ?_, ?_⟩ <;>
  · ext i hi
    simp only [BitVec.getElem_extractLsb', dataOfRaw_getLsbD]
    grind

@[simp] theorem dataOfRaw_rawOfData (d : Data) : dataOfRaw (rawOfData d) = d := by
  apply BitVec.eq_of_getLsbD_eq
  intro i hi
  simp only [dataOfRaw_getLsbD, rawOfData, BitVec.getLsbD_extractLsb']
  grind

@[simp] theorem indexOfData_setWidth (index : Byte) : indexOfData (index.setWidth 64) = index := by
  unfold indexOfData
  ext i hi
  simp only [BitVec.getElem_extractLsb', BitVec.getLsbD_setWidth]
  grind

theorem dataOfBytes_getLsbD (bs : List Byte) (i : Nat) :
    (dataOfBytes bs).getLsbD i =
      if i < 8 then (bs.getD 0 0).getLsbD i
      else if i < 16 then (bs.getD 1 0).getLsbD (i - 8)
      else if i < 24 then (bs.getD 2 0).getLsbD (i - 16)
      else if i < 32 then (bs.getD 3 0).getLsbD (i - 24)
      else if i < 40 then (bs.getD 4 0).getLsbD (i - 32)
      else if i < 48 then (bs.getD 5 0).getLsbD (i - 40)
      else if i < 56 then (bs.getD 6 0).getLsbD (i - 48)
      else (bs.getD 7 0).getLsbD (i - 56) := by
  unfold dataOfBytes
  rw [@BitVec.getLsbD_append 56 8]
  simp only [BitVec.getLsbD_append, Nat.sub_sub]
  grind

/-- The assembler's `bytes` sets B(k) = bk, missing trailing bytes being 0 (R68). -/
theorem burstByte_dataOfBytes (bs : List Byte) (k : Nat) (hk : k < 8) :
    burstByte (dataOfBytes bs) k = bs.getD k 0 := by
  unfold burstByte
  ext i hi
  simp only [BitVec.getElem_extractLsb', dataOfBytes_getLsbD]
  have h : k = 0 ∨ k = 1 ∨ k = 2 ∨ k = 3 ∨ k = 4 ∨ k = 5 ∨ k = 6 ∨ k = 7 := by omega
  rcases h with h | h | h | h | h | h | h | h <;> subst h <;> grind

/-! ## The decoder -/

/-- Everything `decode` can answer: a rejection by the name of the first reserved field, or what the opcode
map gives. -/
theorem decode_cases (q : Request) :
    (reqRsv1 q ≠ 0#4 ∧ decode q = .illegal .reservedRsv1) ∨
    (reqRsv1 q = 0#4 ∧ reqRsv0 q ≠ 0#2 ∧ decode q = .illegal .reservedRsv0) ∨
    (reqRsv1 q = 0#4 ∧ reqRsv0 q = 0#2 ∧ decode q = decodeOp q) := by
  unfold decode
  split
  · exact .inl ⟨‹_›, rfl⟩
  · split
    · exact .inr (.inl ⟨not_not.mp ‹_›, ‹_›, rfl⟩)
    · exact .inr (.inr ⟨not_not.mp ‹_›, not_not.mp ‹_›, rfl⟩)

/-- Everything the opcode map can answer, operands written out (R64). -/
theorem decodeOp_cases (q : Request) :
    (reqOp q = 0x0#4 ∧ decodeOp q = .instr .nop) ∨
    (reqOp q = 0x1#4 ∧ decodeOp q = .instr (.unpack (burstOfRequest q))) ∨
    (reqOp q = 0x2#4 ∧ decodeOp q = .instr (.normalize (rawOfData (reqData q)))) ∨
    (reqOp q = 0x3#4 ∧ decodeOp q = .instr (.getrgb (burstOfRequest q))) ∨
    (reqOp q = 0x4#4 ∧ decodeOp q = .instr (.gamma (indexOfData (reqData q)))) ∨
    (reqOp q = 0x5#4 ∧ decodeOp q = .instr (.scale (rawOfData (reqData q)))) ∨
    (6 ≤ (reqOp q).toNat ∧ decodeOp q = .illegal .reservedOp) := by
  unfold decodeOp
  generalize reqOp q = op
  split
  case h_7 h0 h1 h2 h3 h4 h5 =>
    refine .inr (.inr (.inr (.inr (.inr (.inr ⟨?_, rfl⟩)))))
    have hne : ∀ n : BitVec 4, (op = n → False) → op.toNat ≠ n.toNat :=
      fun n h e => h (BitVec.eq_of_toNat_eq e)
    have := hne _ h0; have := hne _ h1; have := hne _ h2
    have := hne _ h3; have := hne _ h4; have := hne _ h5
    simp_all
    omega
  all_goals simp

/-! ## The opcode table -/

/-- No word selects two rows: any two rows ask for different fixed bits under one mask. -/
theorem opcodeTable_no_overlap :
    opcodeTable.Pairwise (fun a b => a.pattern &&& (a.mask &&& b.mask) ≠ b.pattern &&& (a.mask &&& b.mask)) := by
  decide

/-- Each row is its own operation's encoding (R64). -/
theorem opcodeTable_patterns :
    ∀ row ∈ opcodeTable, row.pattern = mkRequest row.opcode false false 0 0#64 ∧
      row.mask = 0xFFC00000000000000000#80 := by
  decide

end Sys2Proof
end

