-- ==== Sys2Proof/Laws/Operands.lean ====
section
/-! SUPPORT. Lemmas about the functions operations share: what a response word's fields are, where the lanes
of a packed colour stand, what scaling and normalizing compute, and what `burstCheck` answers. -/

namespace Sys2Proof.Machine

/-! ## Response words (R61) -/

theorem mkResponse_getLsbD (st : Status) (result : Data) (i : Nat) :
    (mkResponse st result).getLsbD i =
      if i < 64 then result.getLsbD i else if i < 68 then st.code.getLsbD (i - 64) else false := by
  unfold mkResponse
  rw [@BitVec.getLsbD_append 8 64]
  simp only [BitVec.getLsbD_append, Nat.sub_sub]
  grind

@[simp] theorem respRsv_mkResponse (st : Status) (result : Data) : respRsv (mkResponse st result) = 0#4 := by
  unfold respRsv
  ext i hi
  simp only [BitVec.getElem_extractLsb', mkResponse_getLsbD]
  grind

@[simp] theorem respStatus_mkResponse (st : Status) (result : Data) :
    respStatus (mkResponse st result) = st.code := by
  unfold respStatus
  ext i hi
  simp only [BitVec.getElem_extractLsb', mkResponse_getLsbD]
  grind

@[simp] theorem respResult_mkResponse (st : Status) (result : Data) :
    respResult (mkResponse st result) = result := by
  unfold respResult
  ext i hi
  simp only [BitVec.getElem_extractLsb', mkResponse_getLsbD]
  grind

/-- A field of RESULT read from the whole response word. -/
theorem extract_mkResponse (st : Status) (result : Data) (lo n : Nat) (h : lo + n ≤ 64) :
    (mkResponse st result).extractLsb' lo n = result.extractLsb' lo n := by
  ext i hi
  simp only [BitVec.getElem_extractLsb', mkResponse_getLsbD]
  grind

/-- An OK response as a number is its RESULT. -/
theorem mkResponse_ok_toNat (result : Data) : (mkResponse .ok result).toNat = result.toNat := by
  have h : mkResponse .ok result = result.setWidth 72 := by
    apply BitVec.eq_of_getLsbD_eq
    intro i hi
    rw [mkResponse_getLsbD, BitVec.getLsbD_setWidth]
    have h0 : ∀ j, Status.ok.code.getLsbD j = false := by intro j; simp [Status.code]
    simp only [h0]
    grind
  rw [h, BitVec.toNat_setWidth, Nat.mod_eq_of_lt (by omega)]

theorem status_code_le (st : Status) : st.code.toNat ≤ 3 := by cases st <;> decide

theorem status_code_eq_zero (st : Status) : st.code = 0#4 ↔ st = .ok := by cases st <;> decide

/-! ## Bursts -/

/-- Everything `burstCheck` can answer, and when (R80). -/
theorem burstCheck_cases (b : Burst) :
    (b.rdy = false ∧ burstCheck b = .notReady) ∨
    (b.rdy = true ∧ (b.terr = true ∨ b.len ≠ 8) ∧ burstCheck b = .transportError) ∨
    (b.rdy = true ∧ b.terr = false ∧ b.len = 8 ∧ burstCheck b = .ok) := by
  unfold burstCheck
  cases b.rdy <;> cases b.terr <;> by_cases h : b.len = 8 <;> simp [h]

/-- The byte pairs of a burst lie where the channels of a RawChannels tuple lie (R44, R27). -/
theorem decodeBurst_eq_rawOfData (d : Data) : decodeBurst d = rawOfData d := by
  simp only [decodeBurst, rawOfData, burstByte, RawChannels.mk.injEq]
  refine ⟨?_, ?_, ?_, ?_⟩ <;>
  · apply BitVec.eq_of_getLsbD_eq
    intro i hi
    rw [@BitVec.getLsbD_append 8 8]
    simp only [BitVec.getLsbD_extractLsb']
    grind

/-! ## Channels -/

/-- `scaleCh` is the truncated quotient, clamped: no bit is lost when it becomes a byte (R90, R91). -/
theorem scaleCh_toNat (ch clear : Channel) :
    (scaleCh ch clear).toNat = min (ch.toNat * 255 / clear.toNat) 255 := by
  unfold scaleCh
  rw [BitVec.toNat_ofNat]
  exact Nat.mod_eq_of_lt (lt_of_le_of_lt (min_le_right _ _) (by decide))

/-- The colour of a normalized tuple is the ROM image of its scaled values, clear = 0 included: ROM[0] = 0
(R92, R96). -/
theorem normFn_eq_rom_scaleRaw (raw : RawChannels) :
    normFn raw = { red := gammaRom (scaleRaw raw).red, green := gammaRom (scaleRaw raw).green,
                   blue := gammaRom (scaleRaw raw).blue } := by
  have h0 : gammaRom 0#8 = 0#8 := by decide
  unfold normFn scaleRaw
  split <;> simp [h0]

/-! ## Packed colours (R27, R97) -/

theorem dataOfRgb_getLsbD (c : NormalizedColor) (i : Nat) :
    (dataOfRgb c).getLsbD i =
      if i < 8 then c.red.getLsbD i
      else if i < 16 then c.green.getLsbD (i - 8)
      else if i < 24 then c.blue.getLsbD (i - 16)
      else false := by
  unfold dataOfRgb
  rw [BitVec.getLsbD_setWidth, @BitVec.getLsbD_append 16 8]
  simp only [BitVec.getLsbD_append, Nat.sub_sub]
  grind

theorem dataOfRgb_red (c : NormalizedColor) : (dataOfRgb c).extractLsb' 0 8 = c.red := by
  ext i hi
  simp only [BitVec.getElem_extractLsb', dataOfRgb_getLsbD]
  grind

theorem dataOfRgb_green (c : NormalizedColor) : (dataOfRgb c).extractLsb' 8 8 = c.green := by
  ext i hi
  simp only [BitVec.getElem_extractLsb', dataOfRgb_getLsbD]
  grind

theorem dataOfRgb_blue (c : NormalizedColor) : (dataOfRgb c).extractLsb' 16 8 = c.blue := by
  ext i hi
  simp only [BitVec.getElem_extractLsb', dataOfRgb_getLsbD]
  grind

theorem dataOfRgb_high (c : NormalizedColor) : (dataOfRgb c).extractLsb' 24 40 = 0#40 := by
  ext i hi
  simp only [BitVec.getElem_extractLsb', dataOfRgb_getLsbD]
  grind

/-- A packed colour as a number: red lowest. -/
theorem dataOfRgb_toNat (c : NormalizedColor) :
    (dataOfRgb c).toNat = c.red.toNat + 256 * c.green.toNat + 65536 * c.blue.toNat := by
  unfold dataOfRgb
  have h1 := c.red.isLt
  have h2 := c.green.isLt
  have h3 := c.blue.isLt
  rw [BitVec.toNat_setWidth, @BitVec.toNat_append 16 8, BitVec.toNat_append,
    ← Nat.shiftLeft_add_eq_or_of_lt h2, ← Nat.shiftLeft_add_eq_or_of_lt h1]
  simp only [Nat.shiftLeft_eq]
  omega

end Sys2Proof.Machine
end

