-- ==== Sys2Proof/Laws/PerInstr.lean ====
section
/-! SUPPORT. Statements made once per operation. `EncodeFields`: where the encoder puts the opcode, and that
the reserved fields of an encoded word are 0 (R60, R64, R65). -/

namespace Sys2Proof.Laws.EncodeFields

def Statement (i : Instr) : Prop :=
  reqRsv1 (encode i) = 0#4 ∧ reqOp (encode i) = i.opcode ∧ reqRsv0 (encode i) = 0#2

theorem nop : Statement .nop := by simp [Statement, encode, Instr.opcode]
theorem unpack (b : Burst) : Statement (.unpack b) := by simp [Statement, encode, Instr.opcode]
theorem normalize (raw : RawChannels) : Statement (.normalize raw) := by simp [Statement, encode, Instr.opcode]
theorem getrgb (b : Burst) : Statement (.getrgb b) := by simp [Statement, encode, Instr.opcode]
theorem gamma (index : Byte) : Statement (.gamma index) := by simp [Statement, encode, Instr.opcode]
theorem scale (raw : RawChannels) : Statement (.scale raw) := by simp [Statement, encode, Instr.opcode]

end Sys2Proof.Laws.EncodeFields
end

