-- ==== Sys2Proof/Laws/State.lean ====
section
/-! SUPPORT. One lemma per field per update of the state, so that no later proof unfolds a record update. -/

namespace Sys2Proof.Machine

/-! ## Past an edge -/

@[simp] theorem tick_busy (s : State) : s.tick.busy = s.busy := rfl
@[simp] theorem tick_reqQ (s : State) : s.tick.reqQ = s.reqQ := rfl
@[simp] theorem tick_resp (s : State) : s.tick.resp = s.resp := rfl
@[simp] theorem tick_respValid (s : State) : s.tick.respValid = s.respValid := rfl
@[simp] theorem tick_resetSeen (s : State) : s.tick.resetSeen = s.resetSeen := rfl
@[simp] theorem tick_edges (s : State) : s.tick.edges = s.edges.tail := rfl

/-! ## The reset step -/

@[simp] theorem resetRegs_busy (s : State) : (resetRegs s).busy = false := rfl
@[simp] theorem resetRegs_reqQ (s : State) : (resetRegs s).reqQ = 0#80 := rfl
@[simp] theorem resetRegs_resp (s : State) : (resetRegs s).resp = 0#72 := rfl
@[simp] theorem resetRegs_respValid (s : State) : (resetRegs s).respValid = false := rfl
@[simp] theorem resetRegs_resetSeen (s : State) : (resetRegs s).resetSeen = true := rfl
@[simp] theorem resetRegs_edges (s : State) : (resetRegs s).edges = s.edges := rfl

/-! ## The accept step -/

@[simp] theorem acceptReq_busy (q : Request) (s : State) : (acceptReq q s).busy = true := rfl
@[simp] theorem acceptReq_reqQ (q : Request) (s : State) : (acceptReq q s).reqQ = q := rfl
@[simp] theorem acceptReq_resp (q : Request) (s : State) : (acceptReq q s).resp = s.resp := rfl
@[simp] theorem acceptReq_respValid (q : Request) (s : State) : (acceptReq q s).respValid = false := rfl
@[simp] theorem acceptReq_resetSeen (q : Request) (s : State) : (acceptReq q s).resetSeen = s.resetSeen := rfl
@[simp] theorem acceptReq_edges (q : Request) (s : State) : (acceptReq q s).edges = s.edges := rfl

/-! ## The complete step -/

@[simp] theorem complete_busy (r : Response) (s : State) : (complete r s).busy = false := rfl
@[simp] theorem complete_reqQ (r : Response) (s : State) : (complete r s).reqQ = s.reqQ := rfl
@[simp] theorem complete_resp (r : Response) (s : State) : (complete r s).resp = r := rfl
@[simp] theorem complete_respValid (r : Response) (s : State) : (complete r s).respValid = true := rfl
@[simp] theorem complete_resetSeen (r : Response) (s : State) : (complete r s).resetSeen = s.resetSeen := rfl
@[simp] theorem complete_edges (r : Response) (s : State) : (complete r s).edges = s.edges := rfl

/-! ## Placing a request -/

@[simp] theorem placeRequest_busy (q : Request) (s : State) : (placeRequest q s).busy = true := rfl
@[simp] theorem placeRequest_reqQ (q : Request) (s : State) : (placeRequest q s).reqQ = q := rfl
@[simp] theorem placeRequest_resp (q : Request) (s : State) : (placeRequest q s).resp = s.resp := rfl
@[simp] theorem placeRequest_respValid (q : Request) (s : State) : (placeRequest q s).respValid = false := rfl
@[simp] theorem placeRequest_resetSeen (q : Request) (s : State) : (placeRequest q s).resetSeen = true := rfl
@[simp] theorem placeRequest_edges (q : Request) (s : State) :
    (placeRequest q s).edges = Edge.idle :: s.edges := rfl
@[simp] theorem placeRequest_edge (q : Request) (s : State) : (placeRequest q s).edge = Edge.idle := rfl

/-! ## The next edge -/

theorem edge_cons (s : State) (e : Edge) (es : List Edge) (h : s.edges = e :: es) : s.edge = e := by
  simp [State.edge, h]

theorem edge_nil (s : State) (h : s.edges = []) : s.edge = Edge.idle := by
  simp [State.edge, h]

end Sys2Proof.Machine
end

