-- ==== Sys2Proof/Laws/Step.lean ====
section
/-! SUPPORT. What an operation and a step can do, said once: every operation answers one response and
completes, and a step is a reset, a stop before the first reset, an accept, a completion or nothing. -/

namespace Sys2Proof.Machine

/-! ## Operations -/

/-- The response of a burst-consuming operation. -/
def burstResponse (b : Burst) (result : Data) : Response :=
  match burstCheck b with
  | .ok => mkResponse .ok result
  | e   => errorResponse e

/-- The response of each operation. -/
def responseOf : Instr → Response
  | .nop           => mkResponse .ok 0#64
  | .unpack b      => burstResponse b (dataOfRaw (decodeBurst b.data))
  | .normalize raw => mkResponse .ok (dataOfRgb (normFn raw))
  | .getrgb b      => burstResponse b (dataOfRgb (normFn (decodeBurst b.data)))
  | .gamma index   => mkResponse .ok ((gammaRom index).setWidth 64)
  | .scale raw     => mkResponse .ok (dataOfRgb (scaleRaw raw))

theorem completeBurst_eq (b : Burst) (result : Data) (s : State) :
    completeBurst b result s = complete (burstResponse b result) s := by
  unfold completeBurst burstResponse
  cases burstCheck b <;> rfl

/-- Everything an operation does: it completes with its response. -/
theorem exec_eq_complete (i : Instr) (s : State) : exec i s = .next (complete (responseOf i) s) := by
  cases i <;>
    simp [exec, responseOf, execNop, execUnpack, execNormalize, execGetrgb, execGamma, execScale, completeOk,
      completeBurst_eq]

theorem burstResponse_rejected (b : Burst) (result : Data) (h : burstCheck b ≠ .ok) :
    burstResponse b result = errorResponse (burstCheck b) := by
  unfold burstResponse
  cases hc : burstCheck b with
  | ok => exact absurd hc h
  | transportError => rfl
  | notReady => rfl
  | illegal => rfl

theorem burstResponse_accepted (b : Burst) (result : Data) (h : burstCheck b = .ok) :
    burstResponse b result = mkResponse .ok result := by
  unfold burstResponse
  rw [h]

/-! ## The step -/

/-- The response of a completing edge: the operation's, or ILLEGAL for a reserved word (R66). -/
def responseOfWord (q : Request) : Response :=
  match decode q with
  | .instr i   => responseOf i
  | .illegal _ => errorResponse .illegal

/-- Everything a step can do, guards included. -/
theorem step_cases (s : State) :
    (s.edge.rst = true ∧ step s = .next (resetRegs s.tick)) ∨
    (s.edge.rst = false ∧ s.resetSeen = false ∧ step s = .fault .beforeFirstReset) ∨
    (s.edge.rst = false ∧ s.resetSeen = true ∧ s.busy = true ∧ s.edge.latencyOver = true ∧
      step s = .next (complete (responseOfWord s.reqQ) s.tick)) ∨
    (s.edge.rst = false ∧ s.resetSeen = true ∧ s.busy = true ∧ s.edge.latencyOver = false ∧
      step s = .next s.tick) ∨
    (s.edge.rst = false ∧ s.resetSeen = true ∧ s.busy = false ∧ s.edge.reqValid = true ∧
      step s = .next (acceptReq s.edge.req s.tick)) ∨
    (s.edge.rst = false ∧ s.resetSeen = true ∧ s.busy = false ∧ s.edge.reqValid = false ∧
      step s = .next s.tick) := by
  have hc : edgeAction s = .complete → step s = .next (complete (responseOfWord s.reqQ) s.tick) := by
    intro h
    unfold step responseOfWord
    rw [h]
    cases hd : decode s.reqQ <;> simp [hd, exec_eq_complete, execIllegal, completeError]
  cases h1 : s.edge.rst <;> cases h2 : s.resetSeen <;> cases h3 : s.busy <;>
    cases h4 : s.edge.latencyOver <;> cases h5 : s.edge.reqValid <;>
    first
    | (simp [step, edgeAction, h1, h2, h3, h4, h5]; done)
    | (simp [hc, edgeAction, h1, h2, h3, h4, h5]; done)

end Sys2Proof.Machine
end

