-- ==== Sys2Proof/Laws/Safety.lean ====
section
/-! SUPPORT. Lemmas about the terms of claims: `runEdges` is the host's `run` of this machine, and the
command byte the upstream transport sends always carries the marker bit (R43). -/

namespace Sys2Proof.Safety

open Sys2Proof.Machine

theorem runEdges_eq_run (k : Nat) : ∀ s : State, runEdges k s = Host.Core.run Sys2Proof.core k s := by
  induction k with
  | zero => intro s; rfl
  | succ k ih =>
    intro s
    refine Eq.trans ?_ (Host.Core.run.eq_2 Sys2Proof.core s k).symm
    rw [runEdges]
    cases h : step s with
    | next t    => rw [show Sys2Proof.core.step s = .next t from h]; exact ih t
    | fault r   => rw [show Sys2Proof.core.step s = .fault r from h]; rfl
    | refused r => rw [show Sys2Proof.core.step s = .refused r from h]; rfl

/-- One more edge, at the front. -/
theorem runEdges_succ (k : Nat) (s t : State) (h : step s = .next t) : runEdges (k + 1) s = runEdges k t := by
  rw [runEdges, h]

/-- Events of one edge before those of the edges after it: `Takes` carries `Served` across. -/
theorem served_append (p p' : Option Request) (es es' : List Event) (h : Takes p es p') (h' : Served p' es') :
    Served p (es ++ es') := by
  induction es generalizing p with
  | nil => cases h; exact h'
  | cons e es ih =>
    cases e <;> cases p <;> simp only [Takes, List.cons_append, Served] at h ⊢
    case reset.none => exact ih _ h
    case reset.some => exact ih _ h
    case accepted.none => exact ih _ h
    case completed.some => exact ⟨h.1, ih _ h.2⟩

theorem upstreamCommandByte_marked : upstreamCommandByte.getLsbD 7 = true := by
  simp [upstreamCommandByte, Config.cmdBit]

end Sys2Proof.Safety
end

