-- ==== Sys2Proof/Tests/Slice0.lean ====
section
/-! SUPPORT. Tests and witnesses. Every expected value is the spec's: the request words are laid out field by
field from rule R60, and the responses are those of 95_test_vectors.md (sections 1 to 3) and of the corner
table of rule R98. A `witness_` theorem shows values that meet the hypotheses of the statement it names. -/

namespace Sys2Proof.Tests

open Sys2Proof.Machine Sys2Proof.Safety

/-! ## WellFormed smoke: the one check refuses -/

theorem test_wf_unpack_len16 : (Instr.unpack ⟨true, false, 16, 0#64⟩).wf = false := by decide
theorem test_wf_getrgb_len16 : (Instr.getrgb ⟨true, false, 16, 0#64⟩).wf = false := by decide
theorem test_wf_unpack_len15 : (Instr.unpack ⟨true, false, 15, 0#64⟩).wf = true := by decide

/-! ## Decoding: words laid out as {RSV1, OP, RSV0, RDY, TERR, LEN, DATA} (R60) -/

theorem test_decode_nop :
    decode (0b0000#4 ++ 0b0000#4 ++ 0b00#2 ++ 0b1#1 ++ 0b1#1 ++ 0b1111#4 ++ 0xFFFFFFFFFFFFFFFF#64) =
      .instr .nop := by decide

theorem test_decode_unpack :
    decode (0b0000#4 ++ 0b0001#4 ++ 0b00#2 ++ 0b0#1 ++ 0b1#1 ++ 0b0110#4 ++ 0x0040003000200010#64) =
      .instr (.unpack ⟨false, true, 6, 0x0040003000200010#64⟩) := by decide

theorem test_decode_normalize :
    decode (0b0000#4 ++ 0b0010#4 ++ 0b00#2 ++ 0b1#1 ++ 0b1#1 ++ 0b0011#4 ++ 0x00C8006400320064#64) =
      .instr (.normalize { clear := 100#16, red := 50#16, green := 100#16, blue := 200#16 }) := by decide

theorem test_decode_getrgb :
    decode (0b0000#4 ++ 0b0011#4 ++ 0b00#2 ++ 0b1#1 ++ 0b0#1 ++ 0b1000#4 ++ 0x00C8006400320064#64) =
      .instr (.getrgb ⟨true, false, 8, 0x00C8006400320064#64⟩) := by decide

theorem test_decode_gamma :
    decode (0b0000#4 ++ 0b0100#4 ++ 0b00#2 ++ 0b0#1 ++ 0b0#1 ++ 0b0000#4 ++ 0x000000000000017F#64) =
      .instr (.gamma 0x7F#8) := by decide

theorem test_decode_scale :
    decode (0b0000#4 ++ 0b0101#4 ++ 0b00#2 ++ 0b0#1 ++ 0b0#1 ++ 0b0000#4 ++ 0x00070006000500A1#64) =
      .instr (.scale { clear := 0xA1#16, red := 5#16, green := 6#16, blue := 7#16 }) := by decide

theorem test_decode_reserved :
    decode 0x11080000000000000000#80 = .illegal .reservedRsv1 ∧
    decode 0x80000000000000000000#80 = .illegal .reservedRsv1 ∧
    decode 0x028000C8006400320064#80 = .illegal .reservedRsv0 ∧
    decode 0x04400000000000000005#80 = .illegal .reservedRsv0 ∧
    decode 0x062800C8006400320064#80 = .illegal .reservedOp ∧
    decode 0x0F2800C8006400320064#80 = .illegal .reservedOp := by decide

theorem test_decodeTableWord :
    decodeTableWord 80 0x0400000000000000007F = some (.gamma 127#8) ∧
    decodeTableWord 80 0x09000000000000000000 = none ∧
    decodeTableWord 16 0 = some .nop := by decide

/-! ## One step on each operation: the vectors of 95_test_vectors.md -/

/-- What the block answers to a request placed after reset, as its ports show it. -/
def answer (q : Nat) : Option Response :=
  match step (State.reset.withFetchWord 80 q) with
  | .next t    => observedResponse t
  | .fault _   => none
  | .refused _ => none

def answersAll (vectors : List (Nat × Response)) : Bool := vectors.all (fun v => answer v.1 == some v.2)

theorem test_unpack_accepted :
    answersAll
      [(0x01280040003000200010, 0x000040003000200010#72), (0x0128FFFFFFFFFFFFFFFF, 0x00FFFFFFFFFFFFFFFF#72),
       (0x0128DEF09ABC56781234, 0x00DEF09ABC56781234#72), (0x01288000000001000001, 0x008000000001000001#72)] =
      true := by decide

theorem test_unpack_rejected :
    answersAll
      [(0x01260000003000200010, 0x010000000000000000#72), (0x01200000000000000000, 0x010000000000000000#72),
       (0x01290040003000200010, 0x010000000000000000#72), (0x012F0040003000200010, 0x010000000000000000#72),
       (0x01380040003000200010, 0x010000000000000000#72), (0x01080040003000200010, 0x020000000000000000#72),
       (0x01160040003000200010, 0x020000000000000000#72)] = true := by decide

theorem test_normalize :
    answersAll
      [(0x020000C8006400320064, 0x000000000000FFFFC1#72), (0x0200FFFFFFFFFFFF0000, 0x000000000000000000#72),
       (0x02000002000100000001, 0x000000000000FFFF00#72), (0x020001010001FFFFFFFF, 0x0000000000001C00FF#72),
       (0x020080000100FFFEFFFF, 0x000000000000C100FF#72), (0x020000800002000100FF, 0x000000000000C2251C#72)] =
      true := by decide

theorem test_normalize_more :
    answersAll
      [(0x0200010301E3035703E8, 0x00000000000095BEF0#72), (0x02000001000100010002, 0x000000000000C1C1C1#72),
       (0x0200FFFF012C00650064, 0x000000000000FFFFFF#72), (0x020001230DEF0ABC1234, 0x00000000000052E5CE#72),
       (0x023300C8006400320064, 0x000000000000FFFFC1#72), (0x0200000007D001F403E8, 0x00000000000000FFC1#72)] =
      true := by decide

theorem test_getrgb :
    answersAll
      [(0x032800C8006400320064, 0x000000000000FFFFC1#72), (0x0328FFFFFFFFFFFF0000, 0x000000000000000000#72),
       (0x0328FFFFFFFFFFFFFFFF, 0x000000000000FFFFFF#72), (0x032700C8006400320064, 0x010000000000000000#72),
       (0x033800C8006400320064, 0x010000000000000000#72), (0x030800C8006400320064, 0x020000000000000000#72)] =
      true := by decide

theorem test_scale :
    answersAll
      [(0x050000C8006400320064, 0x000000000000FFFF7F#72), (0x05000007000600050000, 0x000000000000000000#72),
       (0x05000101FFFEFFFFFFFF, 0x00000000000001FEFF#72), (0x05000003000200010003, 0x000000000000FFAA55#72),
       (0x05000006000000080007, 0x000000000000DA00FF#72)] = true := by decide

theorem test_gamma :
    answersAll
      [(0x04000000000000000000, 0x000000000000000000#72), (0x04000000000000000001, 0x00000000000000001C#72),
       (0x04000000000000000042, 0x000000000000000095#72), (0x0400000000000000007B, 0x0000000000000000BE#72),
       (0x0400000000000000009C, 0x0000000000000000D1#72), (0x040000000000000000D1, 0x0000000000000000EB#72),
       (0x040000000000000000DA, 0x0000000000000000F0#72), (0x0400000000000000017F, 0x0000000000000000C1#72),
       (0x043FFFFFFFFFFFFFFF00, 0x000000000000000000#72)] = true := by decide

theorem test_nop_and_reserved :
    answersAll
      [(0x00000000000000000000, 0x000000000000000000#72), (0x003FFFFFFFFFFFFFFFFF, 0x000000000000000000#72),
       (0x07000000000000000000, 0x030000000000000000#72), (0x11080000000000000000, 0x030000000000000000#72),
       (0x028000C8006400320064, 0x030000000000000000#72), (0x80000000000000000000, 0x030000000000000000#72)] =
      true := by decide

/-- The corner table of R98. -/
theorem test_scaleCh_corners :
    [(0, 1, 0), (1, 1, 255), (2, 1, 255), (65535, 1, 255), (65535, 65535, 255), (65534, 65535, 254),
     (256, 65535, 0), (257, 65535, 1), (50, 100, 127), (1, 2, 127), (128, 255, 128)].all
      (fun v => scaleCh (BitVec.ofNat 16 v.1) (BitVec.ofNat 16 v.2.1) == BitVec.ofNat 8 v.2.2) = true := by
  decide

set_option maxRecDepth 20000 in
/-- The hexadecimal copy of the ROM in R110, line 3 of 8: a second spelling of entries 0x40 to 0x5F. -/
theorem test_gammaRom_hex_line :
    (List.range 32).map (fun i => gammaRom (BitVec.ofNat 8 (0x40 + i))) =
      (List.range 32).map (fun i =>
        (0x93949595969798999A9B9B9C9D9E9FA0A0A1A2A3A4A4A5A6A7A7A8A9AAAAABAC#256).extractLsb' (8 * (31 - i)) 8) := by
  decide

/-! ## The steps of the block: program P4 of 95_test_vectors.md, edge by edge -/

def p4Word : Request := 0x0128000007D001F403E8#80

/-- Idle after reset, with the request on the port. -/
def p4Idle : State := { State.reset with edges := [holding p4Word true] }

/-- The request in flight. -/
def p4Busy (edges : List Edge) : State := { State.reset with busy := true, reqQ := p4Word, edges := edges }

theorem test_accept : step p4Idle = .next (p4Busy []) := by rfl

theorem test_reset_abandons :
    step (p4Busy [{ Edge.idle with rst := true }]) = .next State.reset := by rfl

theorem test_wait : step (p4Busy [Edge.waiting]) = .next (p4Busy []) := by rfl

theorem test_complete :
    step (p4Busy []) =
      .next { State.reset with reqQ := p4Word, resp := 0x00000007D001F403E8#72, respValid := true } := by rfl

theorem test_ready : reqReady p4Idle = true ∧ reqReady (p4Busy []) = false ∧
    reqReady { State.reset with edges := [{ Edge.idle with rst := true }] } = false := by decide

/-! ## Witnesses of the statements' hypotheses -/

/-- A state whose next edge completes the request `q`. -/
def due (q : Request) : State := { State.reset with busy := true, reqQ := q }

theorem due_completing (q : Request) : Completing (due q) := ⟨rfl, rfl, rfl, rfl⟩

theorem witness_StepRunsDecodedOperation :
    (due 0x0400000000000000007F#80).resetSeen = true ∧ (due 0x0400000000000000007F#80).edge.rst = false ∧
    (due 0x0400000000000000007F#80).busy = true ∧ (due 0x0400000000000000007F#80).edge.latencyOver = true ∧
    decode (due 0x0400000000000000007F#80).reqQ = .instr (.gamma 127#8) := by decide

theorem witness_PlacedWordRunsNext :
    decode (BitVec.ofNat 80 (0x0400000000000000007F % 2 ^ 80)) = .instr (.gamma 127#8) := by decide

theorem witness_DecodeOfEncode :
    Instr.wf (.unpack ⟨true, true, 15, 0xFFFFFFFFFFFFFFFF#64⟩) = true ∧ Instr.wf (.gamma 255#8) = true := by
  decide

theorem witness_EncodeOfDecode :
    decode 0x05FF#80 = .instr .nop ∧ decode 0x053F00C8006400320064#80 = .instr (.scale ⟨100, 50, 100, 200⟩) := by
  decide

theorem witness_DecodeFollowsOpcodeTable :
    (⟨"SCALE", 0x5#4, 0x05000000000000000000#80, 0xFFC00000000000000000#80⟩ : OpRow) ∈ opcodeTable := by decide

/-- For each clause of OperandsReadFromTheirFields, a word that meets it. -/
theorem witness_OperandsReadFromTheirFields :
    [0x00000000000000000000#80, 0x01000000000000000000#80, 0x02000000000000000000#80, 0x03000000000000000000#80,
      0x04000000000000000000#80, 0x05000000000000000000#80, 0x06000000000000000000#80].map
      (fun q : Request => (q.extractLsb' 76 4, q.extractLsb' 70 2, q.extractLsb' 72 4)) =
    [(0#4, 0#2, 0#4), (0#4, 0#2, 1#4), (0#4, 0#2, 2#4), (0#4, 0#2, 3#4), (0#4, 0#2, 4#4), (0#4, 0#2, 5#4),
      (0#4, 0#2, 6#4)] := by decide

theorem witness_ReservedWordCompletesIllegal :
    Completing (due 0x06000000000000000000#80) ∧ 6 ≤ (0x06000000000000000000#80 : Request).extractLsb' 72 4 ∧
    Completing (due 0x10000000000000000000#80) ∧
    (0x10000000000000000000#80 : Request).extractLsb' 76 4 ≠ 0#4 ∧
    Completing (due 0x00400000000000000000#80) ∧
    (0x00400000000000000000#80 : Request).extractLsb' 70 2 ≠ 0#2 ∧
    ((0x05000000000000000000#80 : Request).extractLsb' 76 4 = 0#4 ∧
      (0x05000000000000000000#80 : Request).extractLsb' 70 2 = 0#2 ∧
      ((0x05000000000000000000#80 : Request).extractLsb' 72 4).toNat < 6) := by decide

/-- Two GAMMA words that differ in every bit GAMMA ignores. -/
theorem witness_UnreadFieldsIgnored :
    Completing (due 0x043FFFFFFFFFFFFFFF7F#80) ∧
    (0x0400000000000000007F#80 : Request).extractLsb' 70 10 =
      (due 0x043FFFFFFFFFFFFFFF7F#80).reqQ.extractLsb' 70 10 ∧
    (0x0400000000000000007F#80 : Request).extractLsb' 72 4 = 4#4 ∧
    (0x0400000000000000007F#80 : Request).extractLsb' 0 8 =
      (due 0x043FFFFFFFFFFFFFFF7F#80).reqQ.extractLsb' 0 8 ∧
    ∃ t, step (due 0x043FFFFFFFFFFFFFFF7F#80) = .next t :=
  ⟨by decide, by decide, by decide, by decide, _, rfl⟩

/-- Two NORMALIZE words that differ in RDY, TERR and LEN, and two equal UNPACK words. -/
theorem witness_UnreadFieldsIgnored_data :
    (0x020000C8006400320064#80 : Request).extractLsb' 72 4 = 2#4 ∧
    (0x020000C8006400320064#80 : Request).extractLsb' 70 10 =
      (0x023F00C8006400320064#80 : Request).extractLsb' 70 10 ∧
    (0x020000C8006400320064#80 : Request).extractLsb' 0 64 =
      (0x023F00C8006400320064#80 : Request).extractLsb' 0 64 ∧
    (0x012800C8006400320064#80 : Request).extractLsb' 72 4 = 1#4 := by decide

/-- For CompletionWritesExec: a completing state, and a state with a readable response and nothing presented. -/
theorem witness_CompletionWritesExec :
    Completing (due 0x0FF#80) ∧
    (let s := { State.reset with respValid := true }
     s.resetSeen = true ∧ s.respValid = true ∧ s.busy = false ∧ s.edge.rst = false ∧ s.edge.reqValid = false) := by
  decide

theorem witness_NopAnswersZero : (0x003F0000000000000001#80 : Request).extractLsb' 70 10 = 0#10 := by decide

/-- For UnpackAcceptedAnswersData, GetrgbIsNormalizeOfUnpack and the accepted clause of
UnpackDecodesAllOrNothing. -/
theorem witness_accepted_burst :
    let b : Burst := ⟨true, false, 8, 0x0040003000200010#64⟩
    b.rdy = true ∧ b.terr = false ∧ b.len = 8 := by decide

/-- For each clause of RejectedBurstAnswersStatus, and the rejected clause of UnpackDecodesAllOrNothing: RDY = 0
with a failed transport; LEN one below and one above 8; TERR = 1 with 8 bytes. -/
theorem witness_RejectedBurstAnswersStatus :
    (⟨false, true, 6, 0#64⟩ : Burst).rdy = false ∧
    ((⟨true, false, 7, 0#64⟩ : Burst).rdy = true ∧ (⟨true, false, 7, 0#64⟩ : Burst).len ≠ 8) ∧
    ((⟨true, false, 9, 0#64⟩ : Burst).rdy = true ∧ (⟨true, false, 9, 0#64⟩ : Burst).len ≠ 8) ∧
    ((⟨true, true, 8, 0#64⟩ : Burst).rdy = true ∧ (⟨true, true, 8, 0#64⟩ : Burst).terr = true) := by decide

theorem witness_GammaAnswersEntry : (0x043F0000000000000180#80 : Request).extractLsb' 70 10 = 0x010#10 := by
  decide

theorem witness_ScaleChExact : 0 < (1#16 : Channel).toNat ∧ 0 < (65535#16 : Channel).toNat := by decide

theorem witness_NormalizeProperties :
    (⟨0#16, 9#16, 9#16, 9#16⟩ : RawChannels).clear = 0#16 ∧
    (0 < (100#16 : Channel).toNat ∧ (100#16 : Channel).toNat ≤ (100#16 : Channel).toNat) ∧
    (50#16 : Channel).toNat ≤ (200#16 : Channel).toNat := by decide

/-- For LanesAreSeparate: tuples that share clear and red and differ in green and blue. -/
theorem witness_LanesAreSeparate :
    let raw : RawChannels := ⟨100#16, 50#16, 100#16, 200#16⟩
    let raw' : RawChannels := ⟨100#16, 50#16, 0#16, 65535#16⟩
    raw.clear = raw'.clear ∧ raw.red = raw'.red ∧ raw.green ≠ raw'.green ∧ raw.blue ≠ raw'.blue := by decide

theorem witness_ErrorPriority : Completing (due 0x11080000000000000000#80) := due_completing _

/-- For the first, third and second clause of StatusWrittenByCompletionOnly. -/
theorem witness_StatusWrittenByCompletionOnly :
    (Completing (due 0#80) ∧ ∃ t, step (due 0#80) = .next t) ∧
    (¬ Completing p4Idle ∧ p4Idle.edge.rst = false ∧ ∃ t, step p4Idle = .next t) :=
  ⟨⟨by decide, _, rfl⟩, by decide, by decide, _, rfl⟩

theorem witness_OutputEquations : p4Idle.edges = holding p4Word true :: [] := by decide

/-- For both clauses of AcceptCopiesRequest. -/
theorem witness_AcceptCopiesRequest :
    Accepting p4Idle ∧
    ((p4Busy [Edge.waiting]).resetSeen = true ∧ (p4Busy [Edge.waiting]).busy = true ∧
      (p4Busy [Edge.waiting]).edges = Edge.waiting :: []) := by decide

/-- For OtherEdgesKeepRegisters: an idle block with nothing presented, and a busy one whose LATENCY is not over. -/
theorem witness_OtherEdgesKeepRegisters :
    (State.reset.resetSeen = true ∧ State.reset.edge.rst = false ∧ ¬ Accepting State.reset ∧
      ¬ Completing State.reset) ∧
    (let s := p4Busy [Edge.waiting]
     s.resetSeen = true ∧ s.edge.rst = false ∧ ¬ Accepting s ∧ ¬ Completing s) := by decide

theorem witness_ResetClearsRegisters : (p4Busy [{ Edge.idle with rst := true }]).edge.rst = true := by decide

theorem witness_StateAfterReset : (([] : List Edge).headD Edge.idle).rst = false := by decide

theorem witness_StuckBeforeFirstReset :
    let s := { State.reset with resetSeen := false }
    s.resetSeen = false ∧ s.edge.rst = false := by decide

theorem witness_StepKeepsInv : Inv p4Idle ∧ ∃ t, step p4Idle = .next t :=
  ⟨⟨by decide, by decide, by decide, by decide, by decide, by decide⟩, _, rfl⟩

/-- `Inv` in a state with a readable response. -/
theorem witness_StepKeepsInv_valid :
    Inv { State.reset with reqQ := p4Word, resp := 0x00000007D001F403E8#72, respValid := true } :=
  ⟨by decide, by decide, by decide, by decide, by decide, by decide⟩

theorem witness_ResponsesInOrderOfAcceptance :
    State.reset.resetSeen = true ∧ (State.reset.respValid = true → State.reset.busy = false) := by decide

/-- For StepKeepsOrderOfService: an accepting, a completing and a resetting edge, the last before any reset. -/
theorem witness_StepKeepsOrderOfService :
    ((p4Idle.respValid = true → p4Idle.busy = false) ∧ ∃ t, step p4Idle = .next t ∧
      eventsOf p4Idle t = [.accepted p4Word]) ∧
    (((p4Busy []).respValid = true → (p4Busy []).busy = false) ∧ ∃ t, step (p4Busy []) = .next t ∧
      eventsOf (p4Busy []) t = [.completed 0x00000007D001F403E8#72]) ∧
    (let s := { p4Busy [{ Edge.idle with rst := true }] with resetSeen := false }
     (s.respValid = true → s.busy = false) ∧ ∃ t, step s = .next t ∧ eventsOf s t = [.reset]) :=
  ⟨⟨by decide, _, rfl, by decide⟩, ⟨by decide, _, rfl, by decide⟩, by decide, _, rfl, by decide⟩

theorem witness_RequestInFlightCompletes :
    let s := p4Busy [Edge.waiting, Edge.waiting]
    s.resetSeen = true ∧ s.busy = true ∧ ∀ e ∈ s.edges, e.rst = false := by decide

theorem witness_EveryLatencyHappens :
    let s := p4Busy (latencyEdges 3 ++ [])
    1 ≤ 3 ∧ s.resetSeen = true ∧ s.busy = true ∧ s.respValid = false ∧ s.reqQ = p4Word ∧
      s.edges = latencyEdges 3 ++ [] := by decide

theorem witness_HeldRequestIsTaken :
    let s := p4Busy (List.replicate 2 (holding 1#80 false) ++ holding 1#80 true :: holding 1#80 true :: [])
    s.resetSeen = true ∧ s.busy = true ∧
      s.edges = List.replicate 2 (holding 1#80 false) ++ holding 1#80 true :: holding 1#80 true :: [] := by decide

/-- For ResponseDependsOnRequestOnly: completing states that differ in RESP and in the schedule. -/
theorem witness_ResponseDependsOnRequestOnly :
    Completing (due p4Word) ∧ Completing { due p4Word with resp := 3#72, edges := [holding 1#80 true] } ∧
    (due p4Word).reqQ = ({ due p4Word with resp := 3#72, edges := [holding 1#80 true] } : State).reqQ := by decide

/-- For UnpackReadsSensorRegisters: registers that hold the burst's bytes from DATA_START up. -/
theorem witness_UnpackReadsSensorRegisters :
    burstReads (fun n => burstByte 0x0040003000200010#64 (n - Config.dataStart.toNat))
      ⟨true, false, 8, 0x0040003000200010#64⟩ := by
  intro k _
  simp [sensorRegister]

theorem witness_OkBurstIsMeaningful :
    honest ⟨true, true, true, true, false, 8, true⟩ ⟨true, false, 8, 0x0040003000200010#64⟩ = true ∧
    ∃ t, exec (.unpack ⟨true, false, 8, 0x0040003000200010#64⟩) State.reset = .next t ∧
      respStatus t.resp = 0#4 :=
  ⟨by decide, _, rfl, by decide⟩

end Sys2Proof.Tests
end

section
/-! PROOFS. The family 10_state: what each kind of edge does to the registers, that the response of a completing
edge is the spec's `Exec` over the raw word, and the statements that follow. -/

/-! ## Each kind of edge, from its guards -/

namespace Sys2Proof.Safety

open Sys2Proof.Machine

/-- Before the first reset (R152). -/
theorem step_of_not_resetSeen {s : State} (hseen : s.resetSeen = false) (hrst : s.edge.rst = false) :
    step s = .fault .beforeFirstReset := by
  simpa [hseen, hrst] using step_cases s

/-- At a completing edge (R33). -/
theorem step_of_completing {s : State} (h : Completing s) :
    step s = .next (complete (responseOfWord s.reqQ) s.tick) := by
  obtain ⟨hseen, hrst, hbusy, hover⟩ := h
  simpa [hseen, hrst, hbusy, hover] using step_cases s

/-- At an accepting edge (R32). -/
theorem step_of_accepting {s : State} (h : Accepting s) : step s = .next (acceptReq s.edge.req s.tick) := by
  obtain ⟨hseen, hrst, hidle, hvalid⟩ := h
  simpa [hseen, hrst, hidle, hvalid] using step_cases s

/-- At an edge of none of these kinds only the edge itself is consumed (R22). -/
theorem step_of_waiting {s : State} (hseen : s.resetSeen = true) (hrst : s.edge.rst = false)
    (hacc : ¬ Accepting s) (hcomp : ¬ Completing s) : step s = .next s.tick := by
  rcases step_cases s with ⟨hr, -⟩ | ⟨-, hs, -⟩ | ⟨-, -, hb, hl, -⟩ | ⟨-, -, -, -, h⟩ | ⟨-, -, hb, hv, -⟩ |
    ⟨-, -, -, -, h⟩
  · simp [hrst] at hr
  · simp [hseen] at hs
  · exact absurd ⟨hseen, hrst, hb, hl⟩ hcomp
  · exact h
  · exact absurd ⟨hseen, hrst, hb, hv⟩ hacc
  · exact h

/-- RESP is written by completions and resets only (R22). -/
theorem step_keeps_resp {s t : State} (hcomp : ¬ Completing s) (hrst : s.edge.rst = false)
    (ht : step s = .next t) : t.resp = s.resp := by
  cases hseen : s.resetSeen with
  | false => cases (step_of_not_resetSeen hseen hrst).symm.trans ht
  | true =>
    by_cases hacc : Accepting s
    · cases (step_of_accepting hacc).symm.trans ht
      rfl
    · cases (step_of_waiting hseen hrst hacc hcomp).symm.trans ht
      rfl

/-- A step is determined by the kind of its edge and the state past it. -/
theorem step_congr {s s' : State} (haction : edgeAction s' = edgeAction s) (htick : s'.tick = s.tick) :
    step s' = step s := by
  have hreq : s'.reqQ = s.reqQ := by rw [← tick_reqQ, htick, tick_reqQ]
  unfold step
  rw [haction, htick, hreq]

/-- A busy block does not look at `req_valid` and `req` to tell the kind of an edge (R32). -/
theorem edgeAction_of_busy {s : State} (hbusy : s.busy = true) :
    edgeAction s =
      if s.edge.rst then .reset
      else if !s.resetSeen then .stuck
      else if s.edge.latencyOver then .complete
      else .wait := by
  unfold edgeAction
  rw [if_pos hbusy]

end Sys2Proof.Safety

/-! ## The response of a completing edge is `Exec` (R66) -/

namespace Sys2Proof.Machine

/-! ### Bits of DATA read from the raw word -/

theorem extract_reqData (q : Request) (lo n : Nat) (h : lo + n ≤ 64) :
    (reqData q).extractLsb' lo n = q.extractLsb' lo n := by
  ext i hi
  have hlt : lo + i < 64 := by omega
  simp [reqData, hlt]

theorem rawOfData_reqData (q : Request) :
    rawOfData (reqData q) =
      ⟨q.extractLsb' 0 16, q.extractLsb' 16 16, q.extractLsb' 32 16, q.extractLsb' 48 16⟩ := by
  simp [rawOfData, extract_reqData]

/-- The byte lanes of `Decode`, packed, are DATA (R81, R83). -/
theorem wordDecode_eq_reqData (q : Request) : wordDecode q = reqData q := by
  have h : wordDecode q = dataOfRaw (decodeBurst (reqData q)) := by
    simp [wordDecode, dataOfRaw, decodeBurst, burstByte, extract_reqData]
  rw [h, decodeBurst_eq_rawOfData, dataOfRaw_rawOfData]

theorem wordBurstCheck_eq_burstCheck (q : Request) : wordBurstCheck q = burstCheck (burstOfRequest q) := by
  have hlen : q.extractLsb' 64 4 = 8#4 ↔ reqLen q = 8 := BitVec.toNat_inj.symm
  simp [wordBurstCheck, burstCheck, burstOfRequest, reqRdy, reqTerr, hlen]

theorem wordNorm_eq_normFn (d : Data) : wordNorm d = dataOfRgb (normFn (rawOfData d)) := by
  unfold wordNorm normFn rawOfData
  split <;> simp [dataOfRgb]

theorem wordScale_eq_scaleRaw (q : Request) :
    wordScale q = dataOfRgb (scaleRaw (rawOfData (reqData q))) := by
  rw [rawOfData_reqData]
  unfold wordScale scaleRaw
  split <;> simp [dataOfRgb]

/-! ### `Exec`, one equation per case, in the machine's operands -/

/-- A burst's response as R80 gives it: an error with RESULT 0 unless the check answers OK. -/
theorem burstResponse_eq_ite (b : Burst) (result : Data) :
    burstResponse b result =
      if burstCheck b ≠ .ok then mkResponse (burstCheck b) 0#64 else mkResponse .ok result := by
  split
  · exact burstResponse_rejected b result ‹_›
  · exact burstResponse_accepted b result (not_not.mp ‹_›)

theorem execWord_reserved {q : Request} (h : q.extractLsb' 76 4 ≠ 0#4 ∨ q.extractLsb' 70 2 ≠ 0#2) :
    execWord q = errorResponse .illegal := if_pos h

section
variable {q : Request} (h1 : q.extractLsb' 76 4 = 0#4) (h0 : q.extractLsb' 70 2 = 0#2)
include h1 h0

theorem execWord_nop (hop : q.extractLsb' 72 4 = 0x0#4) : execWord q = responseOf .nop := by
  simp [execWord, h1, h0, hop, responseOf]

theorem execWord_unpack (hop : q.extractLsb' 72 4 = 0x1#4) :
    execWord q = responseOf (.unpack (burstOfRequest q)) := by
  simp [execWord, h1, h0, hop, responseOf, burstResponse_eq_ite, wordBurstCheck_eq_burstCheck,
    wordDecode_eq_reqData, decodeBurst_eq_rawOfData, burstOfRequest]

theorem execWord_normalize (hop : q.extractLsb' 72 4 = 0x2#4) :
    execWord q = responseOf (.normalize (rawOfData (reqData q))) := by
  simp [execWord, h1, h0, hop, responseOf, wordNorm_eq_normFn, reqData]

theorem execWord_getrgb (hop : q.extractLsb' 72 4 = 0x3#4) :
    execWord q = responseOf (.getrgb (burstOfRequest q)) := by
  simp [execWord, h1, h0, hop, responseOf, burstResponse_eq_ite, wordBurstCheck_eq_burstCheck,
    wordNorm_eq_normFn, wordDecode_eq_reqData, decodeBurst_eq_rawOfData, burstOfRequest]

theorem execWord_gamma (hop : q.extractLsb' 72 4 = 0x4#4) :
    execWord q = responseOf (.gamma (indexOfData (reqData q))) := by
  simp [execWord, h1, h0, hop, responseOf, indexOfData, extract_reqData]

theorem execWord_scale (hop : q.extractLsb' 72 4 = 0x5#4) :
    execWord q = responseOf (.scale (rawOfData (reqData q))) := by
  simp [execWord, h1, h0, hop, responseOf, wordScale_eq_scaleRaw]

theorem execWord_reservedOp (hop : 6 ≤ (q.extractLsb' 72 4).toNat) : execWord q = errorResponse .illegal := by
  unfold execWord
  rw [if_neg (by simp [h1, h0])]
  split
  case h_7 => rfl
  all_goals omega

end

/-- The machine, through its decoder and operand types, answers `Exec` of every request word (R66). -/
theorem responseOfWord_eq_execWord (q : Request) : responseOfWord q = execWord q := by
  unfold responseOfWord
  rcases decode_cases q with ⟨h1, hd⟩ | ⟨-, h0, hd⟩ | ⟨h1, h0, hd⟩
  · rw [hd, execWord_reserved (.inl h1)]
  · rw [hd, execWord_reserved (.inr h0)]
  · rw [hd]
    rcases decodeOp_cases q with ⟨hop, ho⟩ | ⟨hop, ho⟩ | ⟨hop, ho⟩ | ⟨hop, ho⟩ | ⟨hop, ho⟩ | ⟨hop, ho⟩ |
      ⟨hop, ho⟩
    · rw [ho, execWord_nop h1 h0 hop]
    · rw [ho, execWord_unpack h1 h0 hop]
    · rw [ho, execWord_normalize h1 h0 hop]
    · rw [ho, execWord_getrgb h1 h0 hop]
    · rw [ho, execWord_gamma h1 h0 hop]
    · rw [ho, execWord_scale h1 h0 hop]
    · rw [ho, execWord_reservedOp h1 h0 hop]

/-! ### STATUS (R28) -/

theorem status_code_cases (st : Status) :
    st.code = 0#4 ∨ st.code = 1#4 ∨ st.code = 2#4 ∨ st.code = 3#4 := by
  cases st <;> decide

theorem burstResponse_eq_mkResponse (b : Burst) (result : Data) :
    ∃ st r, burstResponse b result = mkResponse st r := by
  rw [burstResponse_eq_ite]
  split
  · exact ⟨_, _, rfl⟩
  · exact ⟨_, _, rfl⟩

theorem responseOf_eq_mkResponse (i : Instr) : ∃ st r, responseOf i = mkResponse st r := by
  cases i with
  | unpack b => exact burstResponse_eq_mkResponse b _
  | getrgb b => exact burstResponse_eq_mkResponse b _
  | _ => exact ⟨_, _, rfl⟩

/-- Every response is laid out by `resp(s, r)` with one of the four statuses (R61). -/
theorem responseOfWord_eq_mkResponse (q : Request) : ∃ st r, responseOfWord q = mkResponse st r := by
  unfold responseOfWord
  split
  · exact responseOf_eq_mkResponse _
  · exact ⟨_, _, rfl⟩

end Sys2Proof.Machine

/-! ## The statements -/

namespace Sys2Proof.Safety

open Sys2Proof.Machine

/-- Settles O10, by `responseOfWord_eq_execWord`: the decoder, the operand types and the operations together
compute the pseudocode of R66. -/
theorem completionWritesExec : Obligations.CompletionWritesExec := by
  refine ⟨fun s hcomp => ?_, fun s hseen _ hidle hrst hvalid => ?_⟩
  · rw [step_of_completing hcomp, responseOfWord_eq_execWord]
    rfl
  · exact step_of_waiting hseen hrst (by simp [hvalid]) (by simp [hidle])

/-- Settles O28: every response is a `mkResponse` of one of the four statuses, RESP changes at completions and
resets only, and a completion overwrites it without reading it. -/
theorem statusWrittenByCompletionOnly : Obligations.StatusWrittenByCompletionOnly := by
  refine ⟨fun s t hcomp ht => ?_, fun s t hcomp hrst ht => ?_, fun s t r hcomp ht => ?_, by decide, rfl⟩
  · obtain ⟨st, result, hr⟩ := responseOfWord_eq_mkResponse s.reqQ
    cases (step_of_completing hcomp).symm.trans ht
    rw [complete_resp, hr, respStatus_mkResponse]
    exact status_code_cases st
  · rw [step_keeps_resp hcomp hrst ht]
  · have hcomp' : Completing { s with resp := r } := hcomp
    rw [← ht, step_of_completing hcomp, step_of_completing hcomp']
    rfl

/-- Settles O41: both states answer `responseOfWord` of the one request. -/
theorem responseDependsOnRequestOnly : Obligations.ResponseDependsOnRequestOnly :=
  fun _ _ hs hs' hreq =>
    ⟨_, _, step_of_completing hs, step_of_completing hs', congrArg responseOfWord hreq⟩

/-- Settles O29: the outputs read BUSY, RESP_VALID, RESP and the pin `rst`, which a change of `req` or
`req_valid` leaves as they are. -/
theorem outputEquations : Obligations.OutputEquations := by
  refine ⟨fun s => ⟨rfl, rfl, rfl⟩, fun s e es v q hedges => ⟨?_, rfl, rfl⟩⟩
  unfold reqReady
  rw [edge_cons s e es hedges]
  rfl

/-- Settles O30: a busy block tells the kind of an edge from `rst` and LATENCY alone, and no step but the accept
reads the pins `req_valid` and `req`. -/
theorem acceptCopiesRequest : Obligations.AcceptCopiesRequest := by
  refine ⟨fun s hacc => step_of_accepting hacc, fun s e es v q _ hbusy hedges => step_congr ?_ ?_⟩
  · rw [edgeAction_of_busy hbusy,
      edgeAction_of_busy (s := { s with edges := { e with reqValid := v, req := q } :: es }) hbusy,
      edge_cons s e es hedges]
    rfl
  · simp [State.tick, hedges]

end Sys2Proof.Safety
end

section
/-! PROOFS. The family 20_memory: the payload bytes of a RESULT, and the order of service over any number of
edges. -/

/-! ## Payload bytes (R46) -/

namespace Sys2Proof.Machine

/-- A field within a field of a word. -/
theorem extract_extract {w : Nat} (x : BitVec w) (lo n lo' n' : Nat) (h : lo' + n' ≤ n) :
    (x.extractLsb' lo n).extractLsb' lo' n' = x.extractLsb' (lo + lo') n' := by
  ext i hi
  have hlt : lo' + i < n := by omega
  simp [hlt, Nat.add_assoc]

/-- The 8 payload bytes of any RESULT are the bytes of the tuple it packs, low byte first. -/
theorem rawPayload_eq_rawOfData_bytes (d : Data) :
    rawPayload d =
      [(rawOfData d).clear.extractLsb' 0 8, (rawOfData d).clear.extractLsb' 8 8,
       (rawOfData d).red.extractLsb' 0 8, (rawOfData d).red.extractLsb' 8 8,
       (rawOfData d).green.extractLsb' 0 8, (rawOfData d).green.extractLsb' 8 8,
       (rawOfData d).blue.extractLsb' 0 8, (rawOfData d).blue.extractLsb' 8 8] := by
  have hrange : List.range 8 = [0, 1, 2, 3, 4, 5, 6, 7] := rfl
  simp [rawPayload, hrange, payloadByte, rawOfData, extract_extract]

theorem rgbPayload_dataOfRgb (c : NormalizedColor) : rgbPayload (dataOfRgb c) = [c.red, c.green, c.blue] := by
  have hrange : List.range 3 = [0, 1, 2] := rfl
  simp [rgbPayload, hrange, payloadByte, dataOfRgb_red, dataOfRgb_green, dataOfRgb_blue]

end Sys2Proof.Machine

/-! ## What one edge shows (R52) -/

namespace Sys2Proof.Safety

open Sys2Proof.Machine

/-- At a reset edge, whatever else holds (R150). -/
theorem step_of_reset {s : State} (hrst : s.edge.rst = true) : step s = .next (resetRegs s.tick) := by
  simpa [hrst] using step_cases s

/-- Everything a next state can be: after a reset, a completion, an accept, or an edge of none of these kinds. -/
theorem step_next_cases {s t : State} (h : step s = .next t) :
    (s.edge.rst = true ∧ t = resetRegs s.tick) ∨
    (Completing s ∧ t = complete (responseOfWord s.reqQ) s.tick) ∨
    (Accepting s ∧ t = acceptReq s.edge.req s.tick) ∨
    (s.resetSeen = true ∧ s.edge.rst = false ∧ ¬ Completing s ∧ ¬ Accepting s ∧ t = s.tick) := by
  have eq_of_next {u : State} (hu : step s = .next u) : t = u :=
    Host.Outcome.next.inj (h.symm.trans hu)
  by_cases hr : s.edge.rst = true
  · exact .inl ⟨hr, eq_of_next (step_of_reset hr)⟩
  have hrst : s.edge.rst = false := Bool.eq_false_of_not_eq_true hr
  cases hseen : s.resetSeen with
  | false => cases (step_of_not_resetSeen hseen hrst).symm.trans h
  | true =>
    by_cases hcomp : Completing s
    · exact .inr (.inl ⟨hcomp, eq_of_next (step_of_completing hcomp)⟩)
    by_cases hacc : Accepting s
    · exact .inr (.inr (.inl ⟨hacc, eq_of_next (step_of_accepting hacc)⟩))
    · exact .inr (.inr (.inr ⟨rfl, hrst, hcomp, hacc, eq_of_next (step_of_waiting hseen hrst hacc hcomp)⟩))

/-! ### The request in flight, before an edge and after it -/

theorem inFlight_of_busy {s : State} (h : s.busy = true) : inFlight s = some s.reqQ := if_pos h

theorem inFlight_of_idle {s : State} (h : s.busy = false) : inFlight s = none := by simp [inFlight, h]

@[simp] theorem inFlight_tick (s : State) : inFlight s.tick = inFlight s := rfl

@[simp] theorem inFlight_resetRegs (s : State) : inFlight (resetRegs s) = none := rfl

@[simp] theorem inFlight_complete (r : Response) (s : State) : inFlight (complete r s) = none := rfl

@[simp] theorem inFlight_acceptReq (q : Request) (s : State) : inFlight (acceptReq q s) = some q := rfl

/-! ### The events, by the kind of edge -/

theorem eventsOf_reset {s : State} (t : State) (h : s.edge.rst = true) : eventsOf s t = [.reset] := if_pos h

theorem eventsOf_accepting {s : State} (t : State) (h : Accepting s) : eventsOf s t = [.accepted s.edge.req] := by
  obtain ⟨-, hrst, hidle, hvalid⟩ := h
  simp [eventsOf, reqReady, hrst, hidle, hvalid]

/-- `resp_valid` rises at a completion because it was 0 while the request was in flight. -/
theorem eventsOf_completing {s : State} (r : Response) (h : Completing s) (hvalid : s.respValid = false) :
    eventsOf s (complete r s.tick) = [.completed r] := by
  obtain ⟨-, hrst, hbusy, -⟩ := h
  simp [eventsOf, reqReady, respValidOut, respOut, hrst, hbusy, hvalid]

/-- An edge that only waits shows nothing. -/
theorem eventsOf_waiting {s : State} (hseen : s.resetSeen = true) (hrst : s.edge.rst = false)
    (hacc : ¬ Accepting s) : eventsOf s s.tick = [] := by
  have hnot : (s.edge.reqValid && reqReady s) = false := by
    cases hb : s.busy with
    | true => simp [reqReady, hb]
    | false =>
      have hvalid : s.edge.reqValid = false := by simpa [hseen, hrst, hb] using hacc
      simp [hvalid]
  simp [eventsOf, hrst, hnot, respValidOut]

/-! ### One step -/

/-- The events of an edge lead from the request in flight before it to the one in flight after it (R52). -/
theorem step_takes {s t : State} (hexcl : s.respValid = true → s.busy = false) (ht : step s = .next t) :
    Takes (inFlight s) (eventsOf s t) (inFlight t) := by
  rcases step_next_cases ht with ⟨hrst, rfl⟩ | ⟨hcomp, rfl⟩ | ⟨hacc, rfl⟩ | ⟨hseen, hrst, -, hacc, rfl⟩
  · simp [eventsOf_reset _ hrst, Takes]
  · have ⟨_, _, hbusy, _⟩ := hcomp
    have hvalid : s.respValid = false := by simpa [hbusy] using hexcl
    simp [eventsOf_completing _ hcomp hvalid, inFlight_of_busy hbusy, Takes, responseOfWord_eq_execWord]
  · have ⟨_, _, hidle, _⟩ := hacc
    simp [eventsOf_accepting _ hacc, inFlight_of_idle hidle, Takes]
  · rw [eventsOf_waiting hseen hrst hacc, inFlight_tick]
    simp [Takes]

/-- A response and a request in flight are never there together (R32, R33). -/
theorem step_keeps_valid_idle {s t : State} (hexcl : s.respValid = true → s.busy = false)
    (ht : step s = .next t) : t.respValid = true → t.busy = false := by
  rcases step_next_cases ht with ⟨-, rfl⟩ | ⟨-, rfl⟩ | ⟨-, rfl⟩ | ⟨-, -, -, -, rfl⟩
  · simp
  · simp
  · simp
  · exact hexcl

/-! ## Any number of edges -/

/-- What the ports show over `k` edges is served in order: each edge's events hand the request in flight on to
the edges after it. A run that stops shows nothing more. -/
theorem served_history (k : Nat) {s : State} (hexcl : s.respValid = true → s.busy = false) :
    Served (inFlight s) (history k s) := by
  induction k generalizing s with
  | zero => simp [history, Served]
  | succ k ih =>
    unfold history
    cases ht : step s with
    | next t => exact served_append _ _ _ _ (step_takes hexcl ht) (ih (step_keeps_valid_idle hexcl ht))
    | fault r => simp [Served]
    | refused r => simp [Served]

/-! ## The statements -/

/-- Settles O26: a RESULT's payload bytes are those of the tuple it packs, and packing a tuple and reading it
back gives the tuple. -/
theorem payloadOrder : Obligations.PayloadOrder := by
  refine ⟨fun raw => ?_, rgbPayload_dataOfRgb, fun _ _ => rfl⟩
  rw [rawPayload_eq_rawOfData_bytes, rawOfData_dataOfRaw]

/-- Settles O37, by induction on the number of edges (`served_history`), each step by `step_takes`. -/
theorem responsesInOrderOfAcceptance : Obligations.ResponsesInOrderOfAcceptance :=
  fun k _ _ hexcl => served_history k hexcl

end Sys2Proof.Safety
end

section
/-! PROOFS. The family 30_encoding: what the opcode map answers for each OP, which words are reserved, and which
bits of a word its decoding depends on. -/

/-! ## The decoder, one equation per case -/

namespace Sys2Proof

/-- With the reserved fields clear, the opcode map decides (R65). -/
theorem decode_of_clear {q : Request} (h1 : reqRsv1 q = 0#4) (h0 : reqRsv0 q = 0#2) : decode q = decodeOp q := by
  simp [decode, h1, h0]

theorem decodeOp_nop {q : Request} (hop : reqOp q = 0x0#4) : decodeOp q = .instr .nop := by
  simp [decodeOp, hop]

theorem decodeOp_unpack {q : Request} (hop : reqOp q = 0x1#4) :
    decodeOp q = .instr (.unpack (burstOfRequest q)) := by
  simp [decodeOp, hop]

theorem decodeOp_normalize {q : Request} (hop : reqOp q = 0x2#4) :
    decodeOp q = .instr (.normalize (rawOfData (reqData q))) := by
  simp [decodeOp, hop]

theorem decodeOp_getrgb {q : Request} (hop : reqOp q = 0x3#4) :
    decodeOp q = .instr (.getrgb (burstOfRequest q)) := by
  simp [decodeOp, hop]

theorem decodeOp_gamma {q : Request} (hop : reqOp q = 0x4#4) :
    decodeOp q = .instr (.gamma (indexOfData (reqData q))) := by
  simp [decodeOp, hop]

theorem decodeOp_scale {q : Request} (hop : reqOp q = 0x5#4) :
    decodeOp q = .instr (.scale (rawOfData (reqData q))) := by
  simp [decodeOp, hop]

theorem decodeOp_illegal_iff (q : Request) :
    (∃ why, decodeOp q = .illegal why) ↔ 6 ≤ (reqOp q).toNat := by
  rcases decodeOp_cases q with ⟨hop, ho⟩ | ⟨hop, ho⟩ | ⟨hop, ho⟩ | ⟨hop, ho⟩ | ⟨hop, ho⟩ | ⟨hop, ho⟩ |
    ⟨hop, ho⟩ <;> simp [ho, hop]

/-- The reserved words: a reserved field that is not 0, or an OP without a row in the opcode map (R65). -/
theorem decode_illegal_iff (q : Request) :
    (∃ why, decode q = .illegal why) ↔ reqRsv1 q ≠ 0#4 ∨ reqRsv0 q ≠ 0#2 ∨ 6 ≤ (reqOp q).toNat := by
  rcases decode_cases q with ⟨h1, hd⟩ | ⟨-, h0, hd⟩ | ⟨h1, h0, hd⟩
  · simp [hd, h1]
  · simp [hd, h0]
  · simp [hd, h1, h0, decodeOp_illegal_iff]

/-! ## The bits a word's decoding depends on (R63) -/

/-- Words that agree on a field agree on every field inside it. -/
theorem extract_congr {w : Nat} {x y : BitVec w} {lo n : Nat} (h : x.extractLsb' lo n = y.extractLsb' lo n)
    (lo' n' : Nat) (hlo : lo ≤ lo') (hhi : lo' + n' ≤ lo + n) :
    x.extractLsb' lo' n' = y.extractLsb' lo' n' := by
  obtain ⟨k, rfl⟩ := Nat.exists_eq_add_of_le hlo
  have hk : k + n' ≤ n := by omega
  rw [← Machine.extract_extract x lo n k n' hk, h, Machine.extract_extract y lo n k n' hk]

theorem indexOfData_reqData (q : Request) : indexOfData (reqData q) = q.extractLsb' 0 8 :=
  Machine.extract_reqData q 0 8 (by decide)

/-- The fields of a burst lie in bits 69:0. -/
theorem burstOfRequest_congr {q q' : Request} (h : q.extractLsb' 0 70 = q'.extractLsb' 0 70) :
    burstOfRequest q = burstOfRequest q' := by
  have hrdy : reqRdy q = reqRdy q' := by simpa [reqRdy] using congrArg (·.getLsbD 69) h
  have hterr : reqTerr q = reqTerr q' := by simpa [reqTerr] using congrArg (·.getLsbD 68) h
  have hlen : reqLen q = reqLen q' := congrArg BitVec.toNat (extract_congr h 64 4 (by decide) (by decide))
  have hdata : reqData q = reqData q' := extract_congr h 0 64 (by decide) (by decide)
  simp [burstOfRequest, hrdy, hterr, hlen, hdata]

section
variable {q q' : Request}
  (hburst : reqOp q = 1#4 ∨ reqOp q = 3#4 → q.extractLsb' 0 70 = q'.extractLsb' 0 70)
  (hdata : reqOp q = 2#4 ∨ reqOp q = 5#4 → reqData q = reqData q')
  (hindex : reqOp q = 4#4 → q.extractLsb' 0 8 = q'.extractLsb' 0 8)
include hburst hdata hindex

/-- Words of one OP that agree on the fields this OP reads are one operation. -/
theorem decodeOp_congr (hop : reqOp q = reqOp q') : decodeOp q = decodeOp q' := by
  unfold decodeOp
  rw [← hop]
  split
  case h_2 h => rw [burstOfRequest_congr (hburst (.inl h))]
  case h_3 h => rw [hdata (.inl h)]
  case h_4 h => rw [burstOfRequest_congr (hburst (.inr h))]
  case h_5 h => rw [indexOfData_reqData, indexOfData_reqData, hindex h]
  case h_6 h => rw [hdata (.inr h)]
  all_goals rfl

/-- The same of whole words: RSV1, OP and RSV0 are bits 79:70. -/
theorem decode_congr (hhead : q.extractLsb' 70 10 = q'.extractLsb' 70 10) : decode q = decode q' := by
  have hrsv1 : reqRsv1 q = reqRsv1 q' := extract_congr hhead 76 4 (by decide) (by decide)
  have hop : reqOp q = reqOp q' := extract_congr hhead 72 4 (by decide) (by decide)
  have hrsv0 : reqRsv0 q = reqRsv0 q' := extract_congr hhead 70 2 (by decide) (by decide)
  unfold decode
  rw [hrsv1, hrsv0, decodeOp_congr hburst hdata hindex hop]

end

/-! ## The upper 16 bits of a laid-out word (R60) -/

theorem extract_mkRequest_upper (op : BitVec 4) (rdy terr : Bool) (len : Nat) (data : Data) :
    (mkRequest op rdy terr len data).extractLsb' 64 16 =
      0#4 ++ op ++ 0#2 ++ BitVec.ofBool rdy ++ BitVec.ofBool terr ++ BitVec.ofNat 4 len :=
  BitVec.extractLsb'_append_eq_left

end Sys2Proof

/-! ## The response of a word, through its decoding -/

namespace Sys2Proof.Machine

theorem responseOfWord_of_illegal {q : Request} {why : Reject} (h : decode q = .illegal why) :
    responseOfWord q = errorResponse .illegal := by
  simp [responseOfWord, h]

theorem responseOfWord_congr {q q' : Request} (h : decode q = decode q') :
    responseOfWord q = responseOfWord q' := by
  simp [responseOfWord, h]

end Sys2Proof.Machine

/-! ## The statements -/

namespace Sys2Proof.Safety

open Sys2Proof.Machine

/-- Settles O7: with the reserved fields clear `decode` is the opcode map, whose operands are these bits. -/
theorem operandsReadFromTheirFields : Obligations.OperandsReadFromTheirFields := by
  intro q h1 h0
  rw [decode_of_clear h1 h0]
  refine ⟨decodeOp_nop, decodeOp_unpack, fun hop => ?_, decodeOp_getrgb, fun hop => ?_, fun hop => ?_,
    (decodeOp_illegal_iff q).mpr⟩
  · rw [decodeOp_normalize hop, rawOfData_reqData]
  · rw [decodeOp_gamma hop, indexOfData_reqData]
  · rw [decodeOp_scale hop, rawOfData_reqData]

/-- Settles O8, by `decode_illegal_iff`: these words, and no others, are rejected, and a rejection of any name
answers ILLEGAL. -/
theorem reservedWordCompletesIllegal : Obligations.ReservedWordCompletesIllegal := by
  refine ⟨fun s hcomp hres => ?_, fun q h1 h0 hop => ?_⟩
  · obtain ⟨why, hd⟩ := (decode_illegal_iff s.reqQ).mpr hres
    rw [step_of_completing hcomp, responseOfWord_of_illegal hd]
    rfl
  · cases hd : decode q with
    | instr i => exact ⟨i, rfl⟩
    | illegal why =>
      rcases (decode_illegal_iff q).mp ⟨why, hd⟩ with hr | hr | hr
      · exact absurd h1 hr
      · exact absurd h0 hr
      · exact absurd hop (Nat.not_lt.mpr hr)

/-- Settles O9: the two words are one operation (`decode_congr`), so they answer one response. -/
theorem unreadFieldsIgnored : Obligations.UnreadFieldsIgnored := by
  intro s t q hcomp hhead hburst hdata hindex ht
  have hresp : responseOfWord q = responseOfWord s.reqQ :=
    responseOfWord_congr (decode_congr hburst hdata hindex hhead)
  have hcomp' : Completing { s with reqQ := q } := hcomp
  cases (step_of_completing hcomp).symm.trans ht
  rw [step_of_completing hcomp', hresp]
  rfl

/-- Settles O3: the complete rows are closed; in the two rows with free bytes the upper 16 bits do not depend on
DATA (`extract_mkRequest_upper`). -/
theorem workedEncodings : Obligations.WorkedEncodings := by
  refine ⟨by decide, by decide, by decide, by decide, by decide, by decide, fun bytes => ?_, fun bytes => ?_,
    by decide, by decide, by decide, by decide, by decide, by decide⟩
  · exact extract_mkRequest_upper 0x1#4 true false 6 _
  · exact extract_mkRequest_upper 0x1#4 false false 8 _

end Sys2Proof.Safety
end

section
/-! PROOFS. The family 40_unpack: when `BurstCheck` answers each status, the lanes of an unpacked burst, and what
UNPACK and GETRGB answer for an accepted and for a rejected burst. -/

namespace Sys2Proof.Machine

/-! ## `BurstCheck`, one equation per status (R80) -/

theorem burstCheck_eq_ok_iff (b : Burst) :
    burstCheck b = .ok ↔ b.rdy = true ∧ b.terr = false ∧ b.len = 8 := by
  rcases burstCheck_cases b with ⟨hrdy, hc⟩ | ⟨hrdy, hbad, hc⟩ | ⟨hrdy, hterr, hlen, hc⟩
  · simp [hc, hrdy]
  · rcases hbad with hterr | hlen
    · simp [hc, hterr]
    · simp [hc, hlen]
  · simp [hc, hrdy, hterr, hlen]

/-- NOT_READY comes first, whatever TERR and LEN hold. -/
theorem burstCheck_of_not_rdy {b : Burst} (hrdy : b.rdy = false) : burstCheck b = .notReady := if_pos hrdy

theorem burstCheck_of_transport {b : Burst} (hrdy : b.rdy = true) (hbad : b.terr = true ∨ b.len ≠ 8) :
    burstCheck b = .transportError := by
  simp [burstCheck, hrdy, hbad]

/-! ## The lanes of a packed tuple (R27) -/

theorem dataOfRaw_clear (raw : RawChannels) : (dataOfRaw raw).extractLsb' 0 16 = raw.clear :=
  congrArg RawChannels.clear (rawOfData_dataOfRaw raw)

theorem dataOfRaw_red (raw : RawChannels) : (dataOfRaw raw).extractLsb' 16 16 = raw.red :=
  congrArg RawChannels.red (rawOfData_dataOfRaw raw)

theorem dataOfRaw_green (raw : RawChannels) : (dataOfRaw raw).extractLsb' 32 16 = raw.green :=
  congrArg RawChannels.green (rawOfData_dataOfRaw raw)

theorem dataOfRaw_blue (raw : RawChannels) : (dataOfRaw raw).extractLsb' 48 16 = raw.blue :=
  congrArg RawChannels.blue (rawOfData_dataOfRaw raw)

/-- Unpacking and packing again put each byte back in its place (R83). -/
theorem dataOfRaw_decodeBurst (d : Data) : dataOfRaw (decodeBurst d) = d := by
  rw [decodeBurst_eq_rawOfData, dataOfRaw_rawOfData]

/-! ## What UNPACK and GETRGB answer -/

/-- An OK response is its RESULT under 8 bits of 0 (R61). -/
theorem mkResponse_ok (result : Data) : mkResponse .ok result = 0#8 ++ result := rfl

theorem exec_unpack_accepted {b : Burst} (h : burstCheck b = .ok) (s : State) :
    exec (.unpack b) s = .next (complete (mkResponse .ok (dataOfRaw (decodeBurst b.data))) s) := by
  rw [exec_eq_complete, responseOf, burstResponse_accepted b _ h]

/-- A rejected burst is answered with its status and RESULT 0 by both burst operations (R80, R84). -/
theorem exec_burst_rejected {b : Burst} (h : burstCheck b ≠ .ok) {i : Instr}
    (hi : i = .unpack b ∨ i = .getrgb b) (s : State) :
    exec i s = .next (complete (errorResponse (burstCheck b)) s) := by
  rcases hi with rfl | rfl
  · rw [exec_eq_complete, responseOf, burstResponse_rejected b _ h]
  · rw [exec_eq_complete, responseOf, burstResponse_rejected b _ h]

end Sys2Proof.Machine

/-! ## The statements -/

namespace Sys2Proof.Safety

open Sys2Proof.Machine

/-- Settles O12: the accepted burst is unpacked and packed again, which is the identity on DATA
(`dataOfRaw_decodeBurst`). -/
theorem unpackAcceptedAnswersData : Obligations.UnpackAcceptedAnswersData := by
  intro b s hrdy hterr hlen
  have hok : burstCheck b = .ok := (burstCheck_eq_ok_iff b).mpr ⟨hrdy, hterr, hlen⟩
  rw [exec_unpack_accepted hok, dataOfRaw_decodeBurst, mkResponse_ok]
  rfl

/-- Settles O13, by the two answers of `BurstCheck`: an accepted burst's lanes are the channels of `decodeBurst`,
each a byte pair, and a rejected burst's RESULT is 0. -/
theorem unpackDecodesAllOrNothing : Obligations.UnpackDecodesAllOrNothing := by
  intro b s
  by_cases hok : burstCheck b = .ok
  · refine ⟨_, exec_unpack_accepted hok s, fun _ => ?_, fun hnot => ?_⟩
    · simp only [complete_resp, extract_mkResponse, Nat.reduceAdd, Nat.reduceLeDiff, dataOfRaw_clear,
        dataOfRaw_red, dataOfRaw_green, dataOfRaw_blue]
      exact ⟨rfl, rfl, rfl, rfl⟩
    · exact absurd ((burstCheck_eq_ok_iff b).mp hok) hnot
  · refine ⟨_, exec_burst_rejected hok (.inl rfl) s, fun hacc => ?_, fun _ => ?_⟩
    · exact absurd ((burstCheck_eq_ok_iff b).mpr hacc) hok
    · exact respResult_mkResponse (burstCheck b) 0#64

/-- Settles O14: each rejecting answer of `BurstCheck` is the status of the response (`exec_burst_rejected`). -/
theorem rejectedBurstAnswersStatus : Obligations.RejectedBurstAnswersStatus := by
  intro b s i hi
  refine ⟨fun hrdy => ?_, fun hrdy hbad => ?_,
    fun hrdy hterr hlen => (burstCheck_eq_ok_iff b).mpr ⟨hrdy, hterr, hlen⟩⟩
  · have hc : burstCheck b = .notReady := burstCheck_of_not_rdy hrdy
    refine ⟨hc, ?_⟩
    rw [exec_burst_rejected (by simp [hc]) hi, hc]
    rfl
  · have hc : burstCheck b = .transportError := burstCheck_of_transport hrdy hbad
    refine ⟨hc, ?_⟩
    rw [exec_burst_rejected (by simp [hc]) hi, hc]
    rfl

end Sys2Proof.Safety
end

section
/-! PROOFS. The family 41_normalize: scaling is exact and monotonic, the lanes of a colour each read clear and
their own channel, and what NORMALIZE answers. -/

namespace Sys2Proof.Machine

/-! ## `ScaleCh` (R90) -/

/-- The exact product fits 24 bits (R90). -/
theorem scale_product_le (ch : Channel) : ch.toNat * 255 ≤ 16711425 := by
  have hlt := ch.isLt
  omega

theorem scaleCh_mono {ch ch' : Channel} (h : ch.toNat ≤ ch'.toNat) (clear : Channel) :
    (scaleCh ch clear).toNat ≤ (scaleCh ch' clear).toNat := by
  rw [scaleCh_toNat, scaleCh_toNat]
  exact min_le_min_right 255 (Nat.div_le_div_right (Nat.mul_le_mul_right 255 h))

/-! ## The ROM is monotonic (R113) -/

set_option maxRecDepth 20000 in
/-- Neighbouring entries, checked over the whole table. -/
theorem gammaRom_le_next :
    ∀ i : Fin 255, (gammaRom (BitVec.ofFin i.castSucc)).toNat ≤ (gammaRom (BitVec.ofFin i.succ)).toNat := by
  decide

theorem gammaRom_mono {i j : Byte} (h : i.toNat ≤ j.toNat) : (gammaRom i).toNat ≤ (gammaRom j).toNat := by
  have hmono : Monotone fun k : Fin 256 => (gammaRom (BitVec.ofFin k)).toNat :=
    Fin.monotone_iff_le_succ.mpr gammaRom_le_next
  exact hmono (a := i.toFin) (b := j.toFin) h

/-! ## A colour, lane by lane (R97) -/

/-- One scaled lane, with the guard for clear = 0 (R96). -/
def scaleLane (clear ch : Channel) : Byte := if clear = 0#16 then 0#8 else scaleCh ch clear

/-- One normalized lane, with the guard for clear = 0 (R92). -/
def normLane (clear ch : Channel) : Byte := if clear = 0#16 then 0#8 else gammaRom (scaleCh ch clear)

/-- A colour whose lanes are `lane` of clear and their own channel. -/
def laneColor (lane : Channel → Channel → Byte) (raw : RawChannels) : NormalizedColor where
  red   := lane raw.clear raw.red
  green := lane raw.clear raw.green
  blue  := lane raw.clear raw.blue

theorem scaleRaw_eq_laneColor (raw : RawChannels) : scaleRaw raw = laneColor scaleLane raw := by
  unfold scaleRaw laneColor scaleLane
  split <;> rfl

theorem normFn_eq_laneColor (raw : RawChannels) : normFn raw = laneColor normLane raw := by
  unfold normFn laneColor normLane
  split <;> rfl

/-- The guard for clear = 0 acts on the whole colour (R97). -/
theorem laneColor_of_clear_zero {lane : Channel → Channel → Byte} (hzero : ∀ ch, lane 0#16 ch = 0#8)
    {raw : RawChannels} (h : raw.clear = 0#16) : laneColor lane raw = ⟨0#8, 0#8, 0#8⟩ := by
  simp [laneColor, h, hzero]

theorem normFn_of_clear_zero {raw : RawChannels} (h : raw.clear = 0#16) : normFn raw = ⟨0#8, 0#8, 0#8⟩ :=
  if_pos h

theorem normFn_of_clear_ne_zero {raw : RawChannels} (h : raw.clear ≠ 0#16) :
    normFn raw =
      ⟨gammaRom (scaleCh raw.red raw.clear), gammaRom (scaleCh raw.green raw.clear),
        gammaRom (scaleCh raw.blue raw.clear)⟩ := if_neg h

/-- Each of the three stages of a lane is monotonic: the quotient, the clamp and the ROM (R94). -/
theorem normLane_mono {ch ch' : Channel} (h : ch.toNat ≤ ch'.toNat) (clear : Channel) :
    (normLane clear ch).toNat ≤ (normLane clear ch').toNat := by
  unfold normLane
  split
  · exact le_rfl
  · exact gammaRom_mono (scaleCh_mono h clear)

/-! ## What the three operations answer -/

/-- An OK response is the number its RESULT is (R61). -/
theorem mkResponse_ok_eq_ofNat (result : Data) : mkResponse .ok result = BitVec.ofNat 72 result.toNat := by
  rw [← mkResponse_ok_toNat, BitVec.ofNat_toNat, BitVec.setWidth_eq]

theorem exec_normalize (raw : RawChannels) (s : State) :
    exec (.normalize raw) s = .next (complete (mkResponse .ok (dataOfRgb (normFn raw))) s) :=
  exec_eq_complete (.normalize raw) s

theorem exec_scale (raw : RawChannels) (s : State) :
    exec (.scale raw) s = .next (complete (mkResponse .ok (dataOfRgb (scaleRaw raw))) s) :=
  exec_eq_complete (.scale raw) s

theorem exec_getrgb_accepted {b : Burst} (h : burstCheck b = .ok) (s : State) :
    exec (.getrgb b) s = .next (complete (mkResponse .ok (dataOfRgb (normFn (decodeBurst b.data)))) s) := by
  rw [exec_eq_complete, responseOf, burstResponse_accepted b _ h]

theorem decodeBurst_dataOfRaw (raw : RawChannels) : decodeBurst (dataOfRaw raw) = raw := by
  rw [decodeBurst_eq_rawOfData, rawOfData_dataOfRaw]

/-- A complete burst that carries a tuple is answered as the tuple itself (R95). -/
theorem exec_getrgb_dataOfRaw (raw : RawChannels) (s : State) :
    exec (.getrgb ⟨true, false, 8, dataOfRaw raw⟩) s =
      .next (complete (mkResponse .ok (dataOfRgb (normFn raw))) s) := by
  rw [exec_getrgb_accepted rfl, decodeBurst_dataOfRaw]

/-- All three operations answer a colour made lane by lane, each lane 0 when clear is (R97). -/
theorem exec_eq_laneColor {raw raw' : RawChannels} {i i' : Instr}
    (h : (i = .normalize raw ∧ i' = .normalize raw') ∨ (i = .scale raw ∧ i' = .scale raw') ∨
      (i = .getrgb ⟨true, false, 8, dataOfRaw raw⟩ ∧ i' = .getrgb ⟨true, false, 8, dataOfRaw raw'⟩))
    (s : State) :
    ∃ lane : Channel → Channel → Byte, (∀ ch, lane 0#16 ch = 0#8) ∧
      exec i s = .next (complete (mkResponse .ok (dataOfRgb (laneColor lane raw))) s) ∧
      exec i' s = .next (complete (mkResponse .ok (dataOfRgb (laneColor lane raw'))) s) := by
  rcases h with ⟨rfl, rfl⟩ | ⟨rfl, rfl⟩ | ⟨rfl, rfl⟩
  · refine ⟨normLane, fun _ => if_pos rfl, ?_⟩
    simp only [exec_normalize, normFn_eq_laneColor, and_self]
  · refine ⟨scaleLane, fun _ => if_pos rfl, ?_⟩
    simp only [exec_scale, scaleRaw_eq_laneColor, and_self]
  · refine ⟨normLane, fun _ => if_pos rfl, ?_⟩
    simp only [exec_getrgb_dataOfRaw, normFn_eq_laneColor, and_self]

end Sys2Proof.Machine

/-! ## The statements -/

namespace Sys2Proof.Safety

open Sys2Proof.Machine

/-- Settles O15: the guard for clear = 0 gives three zero lanes, and otherwise a lane is the ROM entry of the
clamped quotient; `dataOfRgb_toNat` weighs the lanes. -/
theorem normalizeAnswersGammaOfRatio : Obligations.NormalizeAnswersGammaOfRatio := by
  intro raw s
  rw [exec_normalize, mkResponse_ok_eq_ofNat, dataOfRgb_toNat]
  by_cases hclear : raw.clear = 0#16
  · rw [normFn_of_clear_zero hclear, if_pos (by simp [hclear])]
    rfl
  · have hpos : raw.clear.toNat ≠ 0 := fun h => hclear (BitVec.eq_of_toNat_eq h)
    rw [normFn_of_clear_ne_zero hclear, if_neg hpos]
    rfl

/-- Settles O21: the clamp is what makes the byte exact (`scaleCh_toNat`), and a quotient is at most its
dividend. -/
theorem scaleChExact : Obligations.ScaleChExact :=
  fun ch clear _ =>
    ⟨scaleCh_toNat ch clear, scale_product_le ch, (Nat.div_le_self _ _).trans (scale_product_le ch)⟩

/-- Settles O22: the clauses on NormFn are read off it as a lane function of clear and one channel, which is
monotonic (`normLane_mono`); those on ScaleCh are the quotient's bound and `scaleCh_mono`. -/
theorem normalizeProperties : Obligations.NormalizeProperties := by
  simp only [Obligations.NormalizeProperties, normFn_eq_laneColor]
  refine ⟨fun _ => laneColor_of_clear_zero fun _ => if_pos rfl, fun ch clear _ hle => ?_,
    fun _ _ clear _ hle => scaleCh_mono hle clear, fun raw _ hle => normLane_mono hle raw.clear,
    fun raw _ hle => normLane_mono hle raw.clear, fun raw _ hle => normLane_mono hle raw.clear,
    fun _ _ hclear => ⟨congrArg₂ normLane hclear, congrArg₂ normLane hclear, congrArg₂ normLane hclear⟩⟩
  exact Nat.div_le_of_le_mul (Nat.mul_le_mul_right 255 hle)

/-- Settles O23: in each operation a lane is one function of clear and its own channel (`exec_eq_laneColor`). -/
theorem lanesAreSeparate : Obligations.LanesAreSeparate := by
  intro raw raw' i i' s hops hclear
  obtain ⟨lane, hzero, hi, hi'⟩ := exec_eq_laneColor hops s
  refine ⟨_, _, hi, hi', ?_⟩
  simp only [complete_resp, extract_mkResponse, Nat.reduceAdd, Nat.reduceLeDiff, dataOfRgb_red, dataOfRgb_green,
    dataOfRgb_blue, dataOfRgb_high]
  refine ⟨congrArg₂ lane hclear, congrArg₂ lane hclear, congrArg₂ lane hclear, fun h0 => ?_, trivial⟩
  rw [laneColor_of_clear_zero hzero h0]
  decide

end Sys2Proof.Safety
end

section
/-! PROOFS. The family 42_gamma: the ROM is its formula in exact real arithmetic, its properties, and what GAMMA
answers. -/

namespace Sys2Proof.Machine

/-! ## Rounding, judged by fifth powers

The formula's exponent is 2/5, so the fifth power of twice its value is an integer. That a table entry is the
nearest integer is then an inequality between integers (R111: no entry is a tie). -/

/-- Twice a value lies between the odd numbers around twice its nearest integer. The fifth power keeps order. -/
theorem round_eq_of_pow_five_bounds {y : ℝ} {n : ℤ} (hlo : (2 * n - 1 : ℝ) ^ 5 ≤ (2 * y) ^ 5)
    (hhi : (2 * y) ^ 5 < (2 * n + 1 : ℝ) ^ 5) : round y = n := by
  have hmono : StrictMono fun a : ℝ => a ^ 5 := Odd.strictMono_pow (by decide)
  have hlo' : 2 * (n : ℝ) - 1 ≤ 2 * y := hmono.le_iff_le.mp hlo
  have hhi' : 2 * y < 2 * (n : ℝ) + 1 := hmono.lt_iff_lt.mp hhi
  refine round_eq_iff.mpr ⟨?_, ?_⟩ <;> linarith

/-- The formula of R110 over the reals: the value that `ROM[i]` rounds. -/
noncomputable def gammaFormula (i : ℕ) : ℝ := 255 * ((i : ℝ) / 255) ^ ((1 : ℝ) / 2.5)

theorem gammaFormula_pow_five (i : ℕ) : (2 * gammaFormula i) ^ 5 = 32 * 255 ^ 3 * (i : ℝ) ^ 2 := by
  have hbase : 0 ≤ (i : ℝ) / 255 := by positivity
  have hroot : (((i : ℝ) / 255) ^ ((1 : ℝ) / 2.5)) ^ 5 = ((i : ℝ) / 255) ^ 2 := by
    rw [← Real.rpow_mul_natCast hbase, ← Real.rpow_natCast]
    norm_num
  rw [gammaFormula, mul_pow, mul_pow, hroot]
  ring

set_option maxRecDepth 20000 in
/-- The integer inequalities that make each entry the nearest integer, checked over the whole table. -/
theorem gammaRom_pow_five_bounds : ∀ i : Fin 256,
    (2 * ((gammaRom (BitVec.ofFin i)).toNat : ℤ) - 1) ^ 5 ≤ 32 * 255 ^ 3 * (i : ℤ) ^ 2 ∧
      32 * 255 ^ 3 * (i : ℤ) ^ 2 < (2 * ((gammaRom (BitVec.ofFin i)).toNat : ℤ) + 1) ^ 5 := by
  decide

/-! ## What GAMMA answers (R112) -/

theorem exec_gamma (index : Byte) (s : State) :
    exec (.gamma index) s = .next (complete (mkResponse .ok ((gammaRom index).setWidth 64)) s) :=
  exec_eq_complete (.gamma index) s

/-! ## The ROM brightens (R113) -/

set_option maxRecDepth 20000 in
/-- The exponent is below 1: no entry is below its index. Checked over the whole table. -/
theorem le_gammaRom : ∀ i : Fin 256, (i : Nat) ≤ (gammaRom (BitVec.ofNat 8 i)).toNat := by
  decide

end Sys2Proof.Machine

namespace Sys2Proof

/-! ## Words with clear reserved fields, by their upper 10 bits (R60) -/

/-- Bits 79:70 of a word are RSV1, OP and RSV0. -/
theorem fields_of_head {q : Request} {op : BitVec 4} (h : q.extractLsb' 70 10 = 0#4 ++ op ++ 0#2) :
    reqRsv1 q = 0#4 ∧ reqOp q = op ∧ reqRsv0 q = 0#2 := by
  have hfield (lo n : Nat) (hle : lo + n ≤ 10) :
      q.extractLsb' (70 + lo) n = (0#4 ++ op ++ 0#2).extractLsb' lo n := by
    rw [← h, Machine.extract_extract q 70 10 lo n hle]
  have hlow : (0#4 ++ op ++ 0#2).extractLsb' 2 4 = (0#4 ++ op).extractLsb' 0 4 :=
    BitVec.extractLsb'_append_eq_of_le (by decide)
  have hhigh : (0#4 ++ op ++ 0#2).extractLsb' 6 4 = (0#4 ++ op).extractLsb' 4 4 :=
    BitVec.extractLsb'_append_eq_of_le (by decide)
  exact ⟨(hfield 6 4 (by decide)).trans (hhigh.trans BitVec.extractLsb'_append_eq_left),
    (hfield 2 4 (by decide)).trans (hlow.trans BitVec.extractLsb'_append_eq_right),
    (hfield 0 2 (by decide)).trans BitVec.extractLsb'_append_eq_right⟩

/-- With the reserved fields clear, the opcode map decides on OP (R65). -/
theorem decode_of_head {q : Request} {op : BitVec 4} (h : q.extractLsb' 70 10 = 0#4 ++ op ++ 0#2) :
    reqOp q = op ∧ decode q = decodeOp q :=
  let ⟨hrsv1, hop, hrsv0⟩ := fields_of_head h
  ⟨hop, decode_of_clear hrsv1 hrsv0⟩

end Sys2Proof

/-! ## The statements -/

namespace Sys2Proof.Safety

open Sys2Proof.Machine

/-- Settles O24: the fifth power of twice the formula is an integer (`gammaFormula_pow_five`), which lies between
those of the odd numbers around twice the entry (`gammaRom_pow_five_bounds`). -/
theorem gammaRomIsFormula : Obligations.GammaRomIsFormula := by
  intro i
  obtain ⟨hlo, hhi⟩ := gammaRom_pow_five_bounds i.toFin
  refine round_eq_of_pow_five_bounds (y := gammaFormula i.toNat) ?_ ?_
  · rw [gammaFormula_pow_five]
    exact_mod_cast hlo
  · rw [gammaFormula_pow_five]
    exact_mod_cast hhi

/-- Settles O19: GAMMA completes with its entry (`exec_gamma`), and a word of OP 4 with clear reserved fields is
decoded by the opcode map's row. -/
theorem gammaAnswersEntry : Obligations.GammaAnswersEntry := by
  refine ⟨fun index s => ?_, fun q hhead => ?_⟩
  · rw [exec_gamma, mkResponse_ok_eq_ofNat, BitVec.toNat_setWidth_of_le (by decide)]
    rfl
  · obtain ⟨hop, hdecode⟩ := decode_of_head (op := 0x4#4) hhead
    rw [hdecode, decodeOp_gamma hop, indexOfData_reqData]

set_option maxRecDepth 20000 in
/-- Settles O25: monotonicity is `gammaRom_mono`; the two ends, `le_gammaRom` and the list of equal neighbours
are read off the table. -/
theorem gammaRomProperties : Obligations.GammaRomProperties := by
  refine ⟨fun i => gammaRom_mono ?_, by decide, by decide, le_gammaRom, by decide⟩
  simp only [BitVec.toNat_ofNat]
  omega

end Sys2Proof.Safety
end

section
/-! PROOFS. The family 43_system: what NOP answers, and which words are NOP. -/

namespace Sys2Proof.Machine

/-- NOP completes with STATUS OK and RESULT 0 (R120). -/
theorem exec_nop (s : State) : exec .nop s = .next (complete (mkResponse .ok 0#64) s) :=
  exec_eq_complete .nop s

end Sys2Proof.Machine

namespace Sys2Proof

/-- A word of OP 0 with clear reserved fields is NOP, whatever its other fields are (R120). -/
theorem decode_nop_of_head {q : Request} (hhead : q.extractLsb' 70 10 = 0#10) : decode q = .instr .nop := by
  obtain ⟨hop, hdecode⟩ := decode_of_head (op := 0x0#4) hhead
  rw [hdecode, decodeOp_nop hop]

end Sys2Proof

/-! ## The statement -/

namespace Sys2Proof.Safety

open Sys2Proof.Machine

/-- Settles O11: bits 79:70 alone make a word NOP (`decode_nop_of_head`), those of the all-zero word among them,
and NOP completes with the OK response of RESULT 0 (`exec_nop`), which is the number 0. -/
theorem nopAnswersZero : Obligations.NopAnswersZero := by
  refine ⟨fun _ => decode_nop_of_head, decode_nop_of_head (by decide), fun s => ?_⟩
  rw [exec_nop, mkResponse_ok_eq_ofNat]
  rfl

end Sys2Proof.Safety
end

section
/-! PROOFS. The family 60_exceptions: which status each request reports, and that an error answers RESULT 0. -/

namespace Sys2Proof.Machine

/-! ## The status of an operation (R130) -/

/-- The status each operation reports: the burst check's for the two that read a burst, OK for the others. -/
def statusOf : Instr → Status
  | .unpack b    => burstCheck b
  | .getrgb b    => burstCheck b
  | .nop         => .ok
  | .normalize _ => .ok
  | .gamma _     => .ok
  | .scale _     => .ok

theorem respStatus_burstResponse (b : Burst) (result : Data) :
    respStatus (burstResponse b result) = (burstCheck b).code := by
  by_cases hok : burstCheck b = .ok
  · rw [burstResponse_accepted b result hok, respStatus_mkResponse, hok]
  · rw [burstResponse_rejected b result hok, errorResponse, respStatus_mkResponse]

theorem respStatus_responseOf (i : Instr) : respStatus (responseOf i) = (statusOf i).code := by
  cases i with
  | unpack b => exact respStatus_burstResponse b _
  | getrgb b => exact respStatus_burstResponse b _
  | _ => exact respStatus_mkResponse .ok _

/-! ## The status of a request word (R134) -/

/-- The burst check over the raw word, as codes: NOT_READY before TRANSPORT_ERROR (R80). -/
theorem code_burstCheck_burstOfRequest (q : Request) :
    (burstCheck (burstOfRequest q)).code =
      if q.getLsbD 69 = false then 2#4
      else if q.getLsbD 68 = true ∨ q.extractLsb' 64 4 ≠ 8#4 then 1#4
      else 0#4 := by
  rw [← wordBurstCheck_eq_burstCheck, wordBurstCheck, apply_ite Status.code, apply_ite Status.code]
  rfl

theorem respStatus_responseOfWord_of_illegal {q : Request} {why : Reject} (h : decode q = .illegal why) :
    respStatus (responseOfWord q) = 3#4 := by
  rw [responseOfWord_of_illegal h]
  exact respStatus_mkResponse .illegal 0#64

theorem respStatus_responseOfWord_of_instr {q : Request} {i : Instr} (h : decode q = .instr i) :
    respStatus (responseOfWord q) = (statusOf i).code := by
  rw [responseOfWord, h, respStatus_responseOf]

/-- A word that decodes is not reserved. -/
theorem not_reserved_of_decode_instr {q : Request} {i : Instr} (h : decode q = .instr i) :
    ¬ (reqRsv1 q ≠ 0#4 ∨ reqRsv0 q ≠ 0#2 ∨ 6 ≤ (reqOp q).toNat) := by
  rw [← decode_illegal_iff, h]
  simp

theorem decodeOp_of_decode_instr {q : Request} {i : Instr} (h : decode q = .instr i) :
    decodeOp q = .instr i := by
  rcases decode_cases q with ⟨-, hd⟩ | ⟨-, -, hd⟩ | ⟨-, -, hd⟩
  · cases hd.symm.trans h
  · cases hd.symm.trans h
  · exact hd.symm.trans h

/-- An operation of OP 1 or 3 is judged by the burst check, and one of any other OP is OK. -/
theorem statusOf_of_decodeOp {q : Request} {i : Instr} (h : decodeOp q = .instr i) :
    statusOf i = if reqOp q = 1#4 ∨ reqOp q = 3#4 then burstCheck (burstOfRequest q) else .ok := by
  rcases decodeOp_cases q with ⟨hop, ho⟩ | ⟨hop, ho⟩ | ⟨hop, ho⟩ | ⟨hop, ho⟩ | ⟨hop, ho⟩ | ⟨hop, ho⟩ |
    ⟨-, ho⟩ <;> cases ho.symm.trans h <;> simp [hop, statusOf]

/-! ## The RESULT of an error (R133) -/

/-- A burst is answered with a result or rejected with an error. -/
theorem burstResponse_ok_or_error (b : Burst) (result : Data) :
    (∃ r, burstResponse b result = mkResponse .ok r) ∨ ∃ e, burstResponse b result = errorResponse e := by
  by_cases hok : burstCheck b = .ok
  · exact .inl ⟨_, burstResponse_accepted b result hok⟩
  · exact .inr ⟨_, burstResponse_rejected b result hok⟩

theorem responseOf_ok_or_error (i : Instr) :
    (∃ r, responseOf i = mkResponse .ok r) ∨ ∃ e, responseOf i = errorResponse e := by
  cases i with
  | unpack b => exact burstResponse_ok_or_error b _
  | getrgb b => exact burstResponse_ok_or_error b _
  | _ => exact .inl ⟨_, rfl⟩

theorem responseOfWord_ok_or_error (q : Request) :
    (∃ r, responseOfWord q = mkResponse .ok r) ∨ ∃ e, responseOfWord q = errorResponse e := by
  unfold responseOfWord
  split
  · exact responseOf_ok_or_error _
  · exact .inr ⟨_, rfl⟩

theorem respResult_responseOfWord_of_error {q : Request} (h : respStatus (responseOfWord q) ≠ 0#4) :
    respResult (responseOfWord q) = 0#64 := by
  rcases responseOfWord_ok_or_error q with ⟨r, hr⟩ | ⟨e, hr⟩
  · rw [hr, respStatus_mkResponse] at h
    exact absurd rfl h
  · rw [hr]
    exact respResult_mkResponse e 0#64

end Sys2Proof.Machine

/-! ## The statement -/

namespace Sys2Proof.Safety

open Sys2Proof.Machine

/-- Settles O27: reserved words are those `decode` rejects (`decode_illegal_iff`); any other word is an operation,
whose status is the burst check's for OP 1 and 3 and OK for the rest (`statusOf_of_decodeOp`). -/
theorem errorPriority : Obligations.ErrorPriority := by
  intro s hcomp
  refine ⟨_, step_of_completing hcomp, ?_, respResult_responseOfWord_of_error⟩
  rw [complete_resp]
  cases hd : decode s.reqQ with
  | illegal why =>
    rw [respStatus_responseOfWord_of_illegal hd]
    exact (if_pos ((decode_illegal_iff s.reqQ).mp ⟨why, hd⟩)).symm
  | instr i =>
    rw [respStatus_responseOfWord_of_instr hd, statusOf_of_decodeOp (decodeOp_of_decode_instr hd),
      apply_ite Status.code, code_burstCheck_burstOfRequest]
    exact (if_neg (not_reserved_of_decode_instr hd)).symm

end Sys2Proof.Safety
end

section
/-! PROOFS. The family 70_reset_and_hazards: the outputs and the registers at a reset edge. -/

namespace Sys2Proof.Safety

open Sys2Proof.Machine

/-- `rst` lowers `req_ready` at the edge itself, whether or not a request is in flight (R31, R150). -/
theorem reqReady_of_reset {s : State} (hrst : s.edge.rst = true) : reqReady s = false := by
  simp [reqReady, hrst]

/-- The state past a reset edge keeps nothing of the state before it but the schedule of the later edges. -/
theorem resetRegs_tick (s : State) :
    resetRegs s.tick =
      { busy := false, respValid := false, resp := 0#72, reqQ := 0#80, resetSeen := true,
        edges := s.edges.tail } := rfl

/-- Settles O32: `rst` alone selects the reset step (`step_of_reset`), which writes every register. -/
theorem resetClearsRegisters : Obligations.ResetClearsRegisters := by
  intro s hrst
  refine ⟨reqReady_of_reset hrst, ?_⟩
  rw [step_of_reset hrst, resetRegs_tick]

end Sys2Proof.Safety
end

section
/-! PROOFS. The family other: decoding and encoding undo each other, the opcode table, the operations that read
channels, the invariants that every step keeps, and runs of several edges. -/

namespace Sys2Proof

/-! ## Decoding an encoded operation -/

/-- The reserved fields and OP of every encoded word (R60, R64, R65). -/
theorem encode_fields : ∀ i : Instr, Laws.EncodeFields.Statement i
  | .nop           => Laws.EncodeFields.nop
  | .unpack b      => Laws.EncodeFields.unpack b
  | .normalize raw => Laws.EncodeFields.normalize raw
  | .getrgb b      => Laws.EncodeFields.getrgb b
  | .gamma index   => Laws.EncodeFields.gamma index
  | .scale raw     => Laws.EncodeFields.scale raw

/-- A byte count below 16 is read back as it was laid out (R26, R60). -/
theorem burstOfRequest_mkRequest (op : BitVec 4) {b : Burst} (hlen : b.len < 16) :
    burstOfRequest (mkRequest op b.rdy b.terr b.len b.data) = b := by
  simp [burstOfRequest, reqLen_mkRequest, Nat.mod_eq_of_lt hlen]

/-- The opcode map takes an encoded well-formed operation back (R62, R64). -/
theorem decodeOp_encode {i : Instr} (hwf : i.wf = true) : decodeOp (encode i) = .instr i := by
  obtain ⟨-, hop, -⟩ := encode_fields i
  cases i with
  | nop => exact decodeOp_nop hop
  | unpack b => rw [decodeOp_unpack hop, encode, burstOfRequest_mkRequest _ (of_decide_eq_true hwf)]
  | normalize raw => rw [decodeOp_normalize hop, encode, reqData_mkRequest, rawOfData_dataOfRaw]
  | getrgb b => rw [decodeOp_getrgb hop, encode, burstOfRequest_mkRequest _ (of_decide_eq_true hwf)]
  | gamma index => rw [decodeOp_gamma hop, encode, reqData_mkRequest, indexOfData_setWidth]
  | scale raw => rw [decodeOp_scale hop, encode, reqData_mkRequest, rawOfData_dataOfRaw]

/-! ## Encoding a decoded word: the ignored bits (R63) -/

/-- A mask that keeps RSV1, OP, RSV0 and the bits `m` of DATA clears RDY, TERR and LEN. -/
theorem mkRequest_and_dataMask (op : BitVec 4) (rdy terr : Bool) (len : Nat) (data m : Data) :
    mkRequest op rdy terr len data &&& (0xFFC0#16 ++ m) = mkRequest op false false 0 (data &&& m) := by
  have hmask : 0xFFC0#16 = BitVec.allOnes 10 ++ 0#1 ++ 0#1 ++ 0#4 := rfl
  unfold mkRequest
  rw [hmask, @BitVec.and_append 16 64, @BitVec.and_append 12 4, @BitVec.and_append 11 1,
    @BitVec.and_append 10 1]
  simp only [BitVec.and_zero, BitVec.and_allOnes]
  rfl

/-- The low byte of DATA is the ROM index (R62). -/
theorem and_lowByte_eq_indexOfData (d : Data) : d &&& 0xFF#64 = (indexOfData d).setWidth 64 := by
  have hsplit : d.extractLsb' 8 56 ++ d.extractLsb' 0 8 = d := BitVec.extractLsb'_append_extractLsb'
  have hmask : 0xFF#64 = 0#56 ++ BitVec.allOnes 8 := rfl
  conv_lhs => rw [← hsplit, hmask, @BitVec.and_append 56 8, BitVec.and_zero, BitVec.and_allOnes]
  exact (BitVec.setWidth_eq_append (by decide)).symm

/-- The operand of every decoded burst has a byte count below 16 (R26). -/
theorem burstOfRequest_wf (q : Request) : (burstOfRequest q).wf = true := decide_eq_true (reqLen_lt q)

/-- A word with clear reserved fields that the opcode map takes to an operation is that operation's encoding on
every bit the operation reads. -/
theorem encode_of_decodeOp {q : Request} {i : Instr} (h1 : reqRsv1 q = 0#4) (h0 : reqRsv0 q = 0#2)
    (h : decodeOp q = .instr i) : i.wf = true ∧ encode i = q &&& readMask i := by
  have hfields := mkRequest_of_fields q h1 h0
  -- UNPACK and GETRGB read the whole word; the others read the head and the bits `m` of DATA
  have hburst : mkRequest (reqOp q) (reqRdy q) (reqTerr q) (reqLen q) (reqData q) = q &&& BitVec.allOnes 80 := by
    rw [hfields, BitVec.and_allOnes]
  have hdata (m : Data) : mkRequest (reqOp q) false false 0 (reqData q &&& m) = q &&& (0xFFC0#16 ++ m) := by
    rw [← mkRequest_and_dataMask _ (reqRdy q) (reqTerr q) (reqLen q), hfields]
  have hraw := hdata (BitVec.allOnes 64)
  rw [BitVec.and_allOnes, ← dataOfRaw_rawOfData (reqData q)] at hraw
  rcases decodeOp_cases q with ⟨hop, ho⟩ | ⟨hop, ho⟩ | ⟨hop, ho⟩ | ⟨hop, ho⟩ | ⟨hop, ho⟩ | ⟨hop, ho⟩ |
    ⟨-, ho⟩ <;> cases ho.symm.trans h <;> rw [hop] at hburst hdata hraw
  · refine ⟨rfl, ?_⟩
    have hnop := hdata 0#64
    rwa [BitVec.and_zero] at hnop
  · exact ⟨burstOfRequest_wf q, hburst⟩
  · exact ⟨rfl, hraw⟩
  · exact ⟨burstOfRequest_wf q, hburst⟩
  · refine ⟨rfl, ?_⟩
    have hgamma := hdata 0xFF#64
    rwa [and_lowByte_eq_indexOfData] at hgamma
  · exact ⟨rfl, hraw⟩

/-! ## The opcode table -/

/-- A word selects the row of an OP exactly when its reserved fields are clear and that is its OP. -/
theorem and_headMask_eq_iff (q : Request) (op : BitVec 4) :
    q &&& 0xFFC00000000000000000#80 = mkRequest op false false 0 0#64 ↔
      reqRsv1 q = 0#4 ∧ reqRsv0 q = 0#2 ∧ reqOp q = op := by
  constructor
  · intro h
    have hfield (lo n : Nat) (hones : (0xFFC00000000000000000#80 : Request).extractLsb' lo n = BitVec.allOnes n) :
        q.extractLsb' lo n = (mkRequest op false false 0 0#64).extractLsb' lo n := by
      rw [← h, BitVec.extractLsb'_and, hones, BitVec.and_allOnes]
    exact ⟨(hfield 76 4 rfl).trans (reqRsv1_mkRequest ..), (hfield 70 2 rfl).trans (reqRsv0_mkRequest ..),
      (hfield 72 4 rfl).trans (reqOp_mkRequest ..)⟩
  · rintro ⟨h1, h0, rfl⟩
    have hmask : 0xFFC00000000000000000#80 = 0xFFC0#16 ++ 0#64 := rfl
    conv_lhs => rw [← mkRequest_of_fields q h1 h0, hmask, mkRequest_and_dataMask, BitVec.and_zero]

/-- A decoded word has clear reserved fields, and its OP is the operation's. -/
theorem fields_of_decode_instr {q : Request} {i : Instr} (h : decode q = .instr i) :
    reqRsv1 q = 0#4 ∧ reqRsv0 q = 0#2 ∧ reqOp q = i.opcode := by
  rcases decode_cases q with ⟨-, hd⟩ | ⟨-, -, hd⟩ | ⟨h1, h0, hd⟩
  · cases hd.symm.trans h
  · cases hd.symm.trans h
  · refine ⟨h1, h0, ?_⟩
    rcases decodeOp_cases q with ⟨hop, ho⟩ | ⟨hop, ho⟩ | ⟨hop, ho⟩ | ⟨hop, ho⟩ | ⟨hop, ho⟩ | ⟨hop, ho⟩ |
      ⟨-, ho⟩ <;> cases (hd.trans ho).symm.trans h <;> exact hop

/-- Every row of the table selects by the reserved fields and its own OP. -/
theorem select_row_iff {row : OpRow} (hrow : row ∈ opcodeTable) (q : Request) :
    q &&& row.mask = row.pattern ↔ reqRsv1 q = 0#4 ∧ reqRsv0 q = 0#2 ∧ reqOp q = row.opcode := by
  obtain ⟨hpattern, hmask⟩ := opcodeTable_patterns row hrow
  rw [hpattern, hmask, and_headMask_eq_iff]

theorem opcode_row_lt : ∀ row ∈ opcodeTable, row.opcode.toNat < 6 := by decide

/-- Every operation has a row (R64). -/
theorem exists_row_of_instr (i : Instr) : ∃ row ∈ opcodeTable, row.opcode = i.opcode := by
  cases i <;> simp [opcodeTable, Instr.opcode]

/-- A row is selected by the words that decode to its operation. -/
theorem select_row_iff_decode {row : OpRow} (hrow : row ∈ opcodeTable) (q : Request) :
    q &&& row.mask = row.pattern ↔ ∃ i, decode q = .instr i ∧ i.opcode = row.opcode := by
  rw [select_row_iff hrow]
  constructor
  · rintro ⟨h1, h0, hop⟩
    cases hd : decode q with
    | instr i =>
      obtain ⟨-, -, hi⟩ := fields_of_decode_instr hd
      exact ⟨i, rfl, hi.symm.trans hop⟩
    | illegal why =>
      have hlt := opcode_row_lt row hrow
      have hres := (decode_illegal_iff q).mp ⟨why, hd⟩
      simp [h1, h0, hop] at hres
      omega
  · rintro ⟨i, hd, hop⟩
    rw [← hop]
    exact fields_of_decode_instr hd

end Sys2Proof

/-! ## The statements on words -/

namespace Sys2Proof.Safety

open Sys2Proof.Machine

/-- Settles O4: an encoded word has clear reserved fields, so the opcode map decides (`decodeOp_encode`). -/
theorem decodeOfEncode : Obligations.DecodeOfEncode := by
  intro i hwf
  obtain ⟨hrsv1, -, hrsv0⟩ := encode_fields i
  rw [decode_of_clear hrsv1 hrsv0, decodeOp_encode hwf]

/-- Settles O5: a decoded word is the layout of its own fields, and the mask of its operation clears the fields
that the encoder writes as 0 (`encode_of_decodeOp`). -/
theorem encodeOfDecode : Obligations.EncodeOfDecode := by
  intro q i h
  obtain ⟨h1, h0, -⟩ := fields_of_decode_instr h
  exact encode_of_decodeOp h1 h0 (decodeOp_of_decode_instr h)

/-- Settles O6: a row is selected exactly by the words that decode to its operation (`select_row_iff_decode`), and
every operation has a row, so a word that selects none is rejected. -/
theorem decodeFollowsOpcodeTable : Obligations.DecodeFollowsOpcodeTable := by
  refine ⟨fun q row hrow => select_row_iff_decode hrow q, fun q => ⟨?_, fun hnone => ?_⟩⟩
  · rintro ⟨why, hd⟩ row hrow hsel
    obtain ⟨i, hi, -⟩ := (select_row_iff_decode hrow q).mp hsel
    cases hd.symm.trans hi
  · cases hd : decode q with
    | illegal why => exact ⟨why, rfl⟩
    | instr i =>
      obtain ⟨row, hrow, hop⟩ := exists_row_of_instr i
      exact absurd ((select_row_iff_decode hrow q).mpr ⟨i, hd, hop.symm⟩) (hnone row hrow)

/-- Settles O1: a completing edge runs `exec` of the decoded operation past the edge. -/
theorem stepRunsDecodedOperation : Obligations.StepRunsDecodedOperation := by
  intro s i hseen hrst hbusy hover hd
  rw [step_of_completing ⟨hseen, hrst, hbusy, hover⟩, responseOfWord, hd, exec_eq_complete]
  rfl

/-- Settles O2: a placed request is due at the idle edge placed with it, so the step is O1's. -/
theorem placedWordRunsNext : Obligations.PlacedWordRunsNext :=
  fun s w i hd => stepRunsDecodedOperation (s.withFetchWord 80 w) i rfl rfl rfl rfl hd

end Sys2Proof.Safety

namespace Sys2Proof.Machine

/-! ## Lanes of a response -/

/-- Above its three lanes an OK response with a colour is 0 (R61, R97). -/
theorem mkResponse_dataOfRgb_high (c : NormalizedColor) :
    (mkResponse .ok (dataOfRgb c)).extractLsb' 24 48 = 0#48 := by
  have hred := c.red.isLt
  have hgreen := c.green.isLt
  have hblue := c.blue.isLt
  have hlt : (mkResponse .ok (dataOfRgb c)).toNat < 2 ^ 24 := by
    rw [mkResponse_ok_toNat, dataOfRgb_toNat]
    omega
  apply BitVec.eq_of_toNat_eq
  rw [BitVec.extractLsb'_toNat, Nat.shiftRight_eq_div_pow, Nat.div_eq_of_lt hlt]
  rfl

/-- Lane `k` of three, of the ROM image of a colour. -/
theorem dataOfRgb_rom_lane (c : NormalizedColor) {k : Nat} (hk : k < 3) :
    (dataOfRgb ⟨gammaRom c.red, gammaRom c.green, gammaRom c.blue⟩).extractLsb' (8 * k) 8 =
      gammaRom ((dataOfRgb c).extractLsb' (8 * k) 8) := by
  match k, hk with
  | 0, _ => rw [dataOfRgb_red, dataOfRgb_red]
  | 1, _ => rw [dataOfRgb_green, dataOfRgb_green]
  | 2, _ => rw [dataOfRgb_blue, dataOfRgb_blue]

/-- Channel `j` of a burst is its bytes 2j and 2j+1, low byte first (R44). -/
theorem burst_channel (d : Data) (j : Nat) :
    d.extractLsb' (16 * j) 16 = burstByte d (2 * j + 1) ++ burstByte d (2 * j) := by
  have hlo : 8 * (2 * j) = 16 * j := by omega
  unfold burstByte
  rw [BitVec.extractLsb'_append_extractLsb'_eq_extractLsb' (by omega), hlo]

theorem scaleRaw_of_clear_zero {raw : RawChannels} (h : raw.clear = 0#16) : scaleRaw raw = ⟨0#8, 0#8, 0#8⟩ :=
  if_pos h

theorem scaleRaw_of_clear_ne_zero {raw : RawChannels} (h : raw.clear ≠ 0#16) :
    scaleRaw raw =
      ⟨scaleCh raw.red raw.clear, scaleCh raw.green raw.clear, scaleCh raw.blue raw.clear⟩ := if_neg h

end Sys2Proof.Machine

/-! ## The statements on operations -/

namespace Sys2Proof.Safety

open Sys2Proof.Machine

/-- Settles O16: the RESULT of UNPACK is the packed tuple that GETRGB normalizes. -/
theorem getrgbIsNormalizeOfUnpack : Obligations.GetrgbIsNormalizeOfUnpack := by
  intro b s hrdy hterr hlen
  have hok : burstCheck b = .ok := (burstCheck_eq_ok_iff b).mpr ⟨hrdy, hterr, hlen⟩
  refine ⟨_, _, exec_getrgb_accepted hok s, exec_unpack_accepted hok s, ?_, rfl⟩
  have hresult (d : Data) : (mkResponse .ok d).extractLsb' 0 64 = d := respResult_mkResponse .ok d
  rw [complete_resp, hresult, rawOfData_dataOfRaw, exec_normalize]

/-- Settles O17: the guard for clear = 0 gives three zero lanes, and otherwise a lane is the clamped quotient
(`scaleCh_toNat`); `dataOfRgb_toNat` weighs the lanes. -/
theorem scaleAnswersRatio : Obligations.ScaleAnswersRatio := by
  intro raw s
  rw [exec_scale, mkResponse_ok_eq_ofNat, dataOfRgb_toNat]
  by_cases hclear : raw.clear = 0#16
  · rw [scaleRaw_of_clear_zero hclear, if_pos (by simp [hclear])]
    rfl
  · have hpos : raw.clear.toNat ≠ 0 := fun h => hclear (BitVec.eq_of_toNat_eq h)
    rw [scaleRaw_of_clear_ne_zero hclear, if_neg hpos]
    simp only [scaleCh_toNat]
    rfl

/-- Settles O18: a normalized colour is the ROM image of the scaled one (`normFn_eq_rom_scaleRaw`), lane by
lane. -/
theorem normalizeIsRomImageOfScale : Obligations.NormalizeIsRomImageOfScale := by
  intro raw s
  refine ⟨_, _, exec_normalize raw s, exec_scale raw s, fun k hk => ?_, mkResponse_dataOfRgb_high _,
    mkResponse_dataOfRgb_high _⟩
  have hin : 8 * k + 8 ≤ 64 := by omega
  rw [complete_resp, complete_resp, extract_mkResponse _ _ _ _ hin, extract_mkResponse _ _ _ _ hin,
    normFn_eq_rom_scaleRaw, dataOfRgb_rom_lane _ hk]

/-- Settles O20: every operation is one `complete`. -/
theorem operationsCompleteWithoutSideEffect : Obligations.OperationsCompleteWithoutSideEffect :=
  fun i s => ⟨_, exec_eq_complete i s, rfl, rfl, rfl, rfl, rfl⟩

/-- Settles O42: a channel of the answer is two neighbouring burst bytes (`burst_channel`), which are two
neighbouring sensor registers. -/
theorem unpackReadsSensorRegisters : Obligations.UnpackReadsSensorRegisters := by
  intro regs b s hreads hrdy hterr hlen
  have hok : burstCheck b = .ok := (burstCheck_eq_ok_iff b).mpr ⟨hrdy, hterr, hlen⟩
  refine ⟨_, exec_unpack_accepted hok s, fun j hj => ?_⟩
  rw [complete_resp, extract_mkResponse _ _ _ _ (by omega), dataOfRaw_decodeBurst, burst_channel,
    hreads (2 * j + 1) (by omega), hreads (2 * j) (by omega)]
  rfl

/-- Settles O43: an OK answer means that the burst check passed, and the requester's contract ties the three
fields it checks to what happened upstream. -/
theorem okBurstIsMeaningful : Obligations.OkBurstIsMeaningful := by
  intro u b s t i hi hhonest ht hstatus
  have hstatusOf : statusOf i = burstCheck b := by rcases hi with rfl | rfl <;> rfl
  cases (exec_eq_complete i s).symm.trans ht
  rw [complete_resp, respStatus_responseOf, hstatusOf, status_code_eq_zero, burstCheck_eq_ok_iff] at hstatus
  obtain ⟨hrdy, hterr, hlen⟩ := hstatus
  simp only [honest, hrdy, hterr, hlen, Bool.not_true, Bool.false_or, Bool.and_eq_true, beq_iff_eq] at hhonest
  obtain ⟨⟨⟨hpowered, hfailed⟩, hreturned⟩, hone⟩ := hhonest
  exact ⟨hpowered, hfailed.symm, hreturned.symm, hone⟩

/-! ## What every step keeps -/

theorem inv_resetRegs (s : State) : Inv (resetRegs s) where
  reset_seen := rfl
  rsv_zero := by simp [respRsv]
  status_legal := by simp [respStatus]
  error_result_zero := fun _ => rfl
  valid_idle := fun _ => rfl
  valid_answers := fun h => absurd h Bool.false_ne_true

/-- A completion writes a well-formed answer to REQ_Q, whatever RESP held before (R33, R133). -/
theorem inv_complete {s : State} (hseen : s.resetSeen = true) : Inv (complete (responseOfWord s.reqQ) s) := by
  obtain ⟨st, r, hr⟩ := responseOfWord_eq_mkResponse s.reqQ
  exact {
    reset_seen := hseen
    rsv_zero := by rw [complete_resp, hr, respRsv_mkResponse]
    status_legal := by rw [complete_resp, hr, respStatus_mkResponse]; exact status_code_le st
    error_result_zero := respResult_responseOfWord_of_error
    valid_idle := fun _ => rfl
    valid_answers := fun _ => responseOfWord_eq_execWord s.reqQ }

/-- An accept leaves RESP as it is and takes its validity away (R32). -/
theorem inv_acceptReq {s : State} (h : Inv s) (q : Request) : Inv (acceptReq q s) where
  reset_seen := h.reset_seen
  rsv_zero := h.rsv_zero
  status_legal := h.status_legal
  error_result_zero := h.error_result_zero
  valid_idle := fun hv => absurd hv Bool.false_ne_true
  valid_answers := fun hv => absurd hv Bool.false_ne_true

/-- No clause of the invariant speaks of the schedule. -/
theorem inv_tick {s : State} (h : Inv s) : Inv s.tick := { h with }

theorem step_resetSeen {s t : State} (ht : step s = .next t) : t.resetSeen = true := by
  rcases step_next_cases ht with ⟨-, rfl⟩ | ⟨⟨hseen, -⟩, rfl⟩ | ⟨⟨hseen, -⟩, rfl⟩ | ⟨hseen, -, -, -, rfl⟩
  · rfl
  · exact hseen
  · exact hseen
  · exact hseen

/-- Settles O35: `State.reset` is the state that a reset step leaves. -/
theorem resetStateMeetsInv : Obligations.ResetStateMeetsInv := inv_resetRegs State.reset

/-- Settles O36, by the four kinds of edge that have a next state. -/
theorem stepKeepsInv : Obligations.StepKeepsInv := by
  intro s t hinv ht
  rcases step_next_cases ht with ⟨-, rfl⟩ | ⟨-, rfl⟩ | ⟨-, rfl⟩ | ⟨-, -, -, -, rfl⟩
  · exact inv_resetRegs s.tick
  · exact inv_complete (s := s.tick) hinv.reset_seen
  · exact inv_acceptReq (inv_tick hinv) s.edge.req
  · exact inv_tick hinv

/-- Settles O44, from `step_takes` and `step_keeps_valid_idle`; before the first reset only a reset edge has a next
state (`step_resetSeen`). -/
theorem stepKeepsOrderOfService : Obligations.StepKeepsOrderOfService :=
  fun _ _ hexcl ht => ⟨step_takes hexcl ht, step_keeps_valid_idle hexcl ht, step_resetSeen ht⟩

/-! ## Single edges -/

/-- Settles O31: such an edge only waits. -/
theorem otherEdgesKeepRegisters : Obligations.OtherEdgesKeepRegisters :=
  fun _ hseen hrst hacc hcomp => step_of_waiting hseen hrst hacc hcomp

/-- Settles O33: the registers' reset values are closed, and `req_ready` is `NOT rst` while BUSY = 0 (R31). -/
theorem stateAfterReset : Obligations.StateAfterReset := by
  refine ⟨rfl, rfl, rfl, rfl, rfl, rfl, fun es hrst => ?_⟩
  have hedge : ({ State.reset with edges := es } : State).edge.rst = false := hrst
  rw [reqReady, hedge]
  rfl

/-- Settles O34: without `rst`, such a state has no step but the fault. -/
theorem stuckBeforeFirstReset : Obligations.StuckBeforeFirstReset :=
  fun _ hseen hrst => step_of_not_resetSeen hseen hrst

/-! ## Runs of several edges -/

/-- One more edge, at the end. -/
theorem runEdges_succ_last {k : Nat} {s t u : State} (h : runEdges k s = .next t) (hu : step t = .next u) :
    runEdges (k + 1) s = .next u := by
  induction k generalizing s with
  | zero =>
    cases h
    exact runEdges_succ 0 _ _ hu
  | succ k ih =>
    rw [runEdges] at h ⊢
    cases hs : step s with
    | next v => exact ih (by simpa [hs] using h)
    | fault r => simp [hs] at h
    | refused r => simp [hs] at h

/-- An edge at which a request in flight stays in flight: no reset, and LATENCY is not over (R160). -/
def Waits (e : Edge) : Prop := e.rst = false ∧ e.latencyOver = false

theorem waits_of_mem_replicate {e : Edge} (h : Waits e) {n : Nat} : ∀ e' ∈ List.replicate n e, Waits e' := by
  intro e' he'
  rwa [List.eq_of_mem_replicate he']

section
variable {ws es : List Edge} {s : State} (hseen : s.resetSeen = true) (hbusy : s.busy = true)
  (hwait : ∀ e ∈ ws, Waits e) (hedges : s.edges = ws ++ es)
include hseen hbusy hwait hedges

/-- While LATENCY is not over, a busy block keeps every register. -/
theorem runEdges_waiting : runEdges ws.length s = .next { s with edges := es } := by
  induction ws generalizing s with
  | nil => rw [← List.nil_append es, ← hedges]; rfl
  | cons w ws ih =>
    have hedge : s.edge = w := edge_cons s w (ws ++ es) hedges
    obtain ⟨hrst, hover⟩ := hwait w List.mem_cons_self
    rw [← hedge] at hrst hover
    have hstep : step s = .next s.tick := step_of_waiting hseen hrst (by simp [hbusy]) (by simp [hover])
    rw [List.length_cons, runEdges_succ _ _ _ hstep,
      ih (s := s.tick) hseen hbusy (fun e he => hwait e (List.mem_cons_of_mem w he)) (by simp [hedges])]
    rfl

/-- The edge after them completes it with `Exec(REQ_Q)`, if it is no reset and LATENCY is over (R33, R160). -/
theorem runEdges_completing (hrst : (es.headD Edge.idle).rst = false)
    (hover : (es.headD Edge.idle).latencyOver = true) :
    runEdges (ws.length + 1) s =
      .next { s with edges := es.tail, resp := execWord s.reqQ, busy := false, respValid := true } := by
  have hcomp : Completing { s with edges := es } := ⟨hseen, hrst, hbusy, hover⟩
  rw [runEdges_succ_last (runEdges_waiting hseen hbusy hwait hedges) (step_of_completing hcomp),
    responseOfWord_eq_execWord]
  rfl

end

/-- Settles O38: the edges before the first one with LATENCY over only wait, and that one, or the idle edge after
the end of the schedule, completes the request. -/
theorem requestInFlightCompletes : Obligations.RequestInFlightCompletes := by
  intro s hseen hbusy hnorst
  have hsplit : s.edges = s.edges.takeWhile (!·.latencyOver) ++ s.edges.dropWhile (!·.latencyOver) :=
    List.takeWhile_append_dropWhile.symm
  have hwait : ∀ e ∈ s.edges.takeWhile (!·.latencyOver), Waits e := fun e he =>
    ⟨hnorst e (List.takeWhile_subset _ he), by simpa using List.mem_takeWhile_imp he⟩
  obtain ⟨hrst, hover⟩ : ((s.edges.dropWhile (!·.latencyOver)).headD Edge.idle).rst = false ∧
      ((s.edges.dropWhile (!·.latencyOver)).headD Edge.idle).latencyOver = true := by
    have hfirst := List.head?_dropWhile_not (!·.latencyOver) s.edges
    cases hes : s.edges.dropWhile (!·.latencyOver) with
    | nil => exact ⟨rfl, rfl⟩
    | cons e es =>
      have hmem : e ∈ s.edges := List.dropWhile_subset _ (hes ▸ List.mem_cons_self)
      rw [hes] at hfirst
      exact ⟨hnorst e hmem, by simpa using hfirst⟩
  exact ⟨_, _, Nat.succ_le_succ (List.takeWhile_sublist _).length_le,
    runEdges_completing hseen hbusy hwait hsplit hrst hover, rfl, rfl, rfl, rfl⟩

/-- Settles O39: the schedule of `latency` edges is `latency - 1` waiting edges and a completing one, so fewer edges
of it only wait. -/
theorem everyLatencyHappens : Obligations.EveryLatencyHappens := by
  intro latency q es s hpos hseen hbusy _ hreq hedges
  subst hreq
  obtain ⟨n, rfl⟩ : ∃ n, latency = n + 1 := Nat.exists_eq_add_of_le' hpos
  have hsplit : s.edges = List.replicate n Edge.waiting ++ Edge.idle :: es := by
    rw [hedges, latencyEdges, List.append_assoc, Nat.add_sub_cancel, List.singleton_append]
  have hwaiting : Waits Edge.waiting := ⟨rfl, rfl⟩
  constructor
  · intro j hj
    have hfront : s.edges = List.replicate j Edge.waiting ++ s.edges.drop j := by
      conv_lhs => rw [← List.take_append_drop j s.edges]
      rw [hsplit, List.take_append_of_le_length (by simp; omega), List.take_replicate,
        min_eq_left (Nat.le_of_lt_succ hj)]
    have hrun := runEdges_waiting hseen hbusy (waits_of_mem_replicate hwaiting) hfront
    rwa [List.length_replicate] at hrun
  · have hrun := runEdges_completing hseen hbusy (waits_of_mem_replicate hwaiting) hsplit rfl rfl
    rw [List.length_replicate] at hrun
    exact hrun

/-- Settles O40: the held request waits while the block is busy, and is accepted at the edge after the
completion. -/
theorem heldRequestIsTaken : Obligations.HeldRequestIsTaken := by
  intro n q es s hseen hbusy hedges
  have hwait : Waits (holding q false) := ⟨rfl, rfl⟩
  have hrun := runEdges_completing hseen hbusy (waits_of_mem_replicate hwait) hedges rfl rfl
  rw [List.length_replicate] at hrun
  exact runEdges_succ_last hrun (step_of_accepting ⟨hseen, rfl, rfl, rfl⟩)

end Sys2Proof.Safety
end
